-- ==== Sys2Proof/Word.lean ====
section
/-!
DEFINITION. The words and names the block's formats are made of: bytes, endpoint addresses (30_encoding R103), endpoint
types (10_state R24), callback names (R22), buffer references (20_memory R72), the format list (30_encoding R100) and the
reasons a word of that format is not an instruction.
-/

namespace Sys2Proof

/-- One byte; every space of the block is a space of bytes (20_memory R70, R79). -/
abbrev Byte := BitVec 8

/-- EPADDR: direction bit and endpoint number (30_encoding R103). The reserved bits 6:4 are ignored by the block,
so they are not part of an address. -/
structure EpAddr where
  isIn : Bool
  num  : BitVec 4
  deriving DecidableEq, Repr, Inhabited

/-- EpType, codes 0..3 in this order (10_state R24). -/
inductive EpType where
  | control
  | isochronous
  | bulk
  | interrupt
  deriving DecidableEq, Repr, Inhabited

/-- CallbackId (10_state R22): the completion callbacks a record can name. -/
inductive CallbackId where
  | ctrlIn
  | ctrlOut
  | botIn
  | botOut
  | cls (k : Byte)
  deriving DecidableEq, Repr, Inhabited

/-- The byte arrays a buffer reference can name (20_memory R70, R72): the block's own buffers and response constants, or an
array owned by the class layer, which is where it begins in the class layer's memory and how long it is. `none` has no bytes
(40 R156). -/
inductive BufArray where
  | none
  | scratch
  | work
  | cbw
  | csw
  | maxLun
  | deviceDesc
  | configDesc
  | app (base size : BitVec 32)
  deriving DecidableEq, Repr, Inhabited

/-- A buffer reference: a byte array and an offset into it (20_memory R72). -/
structure BufRef where
  array : BufArray
  off   : BitVec 32
  deriving DecidableEq, Repr, Inhabited

/-- The reference that is never read (40 R156). -/
abbrev BufRef.none : BufRef := ⟨.none, 0⟩

/-- `scratch` from its start (10_state R28). -/
abbrev BufRef.scratch : BufRef := ⟨.scratch, 0⟩

/-- `work` from its start (10_state R32). -/
abbrev BufRef.work : BufRef := ⟨.work, 0⟩

/-- `cbw_buf` from its start (10_state R34). -/
abbrev BufRef.cbw : BufRef := ⟨.cbw, 0⟩

/-- `csw_buf` from its start (10_state R34). -/
abbrev BufRef.csw : BufRef := ⟨.csw, 0⟩

/-- MAX_LUN_BYTE (42 R265). -/
abbrev BufRef.maxLun : BufRef := ⟨.maxLun, 0⟩

/-- DEVICE_DESC from its start (00_scope R6). -/
abbrev BufRef.deviceDesc : BufRef := ⟨.deviceDesc, 0⟩

/-- CONFIG_DESC from its start (00_scope R6). -/
abbrev BufRef.configDesc : BufRef := ⟨.configDesc, 0⟩

/-- The formats the block decodes (30_encoding R100, R120). `op` stands for the one-byte codes of OP, CTL, HOST, EVT and
RST, which share one code space. `periph` is the model's: a call of the peripheral interface that no row and no rule makes (40
R177, assumption log 32). -/
inductive Format where
  | periph
  | op
  | setup
  | classReq
  | cbw
  | cdb
  deriving DecidableEq, Repr, Inhabited

/-- One undecoded word: its format and its bytes, first byte first. -/
structure OpWord where
  fmt   : Format
  bytes : List Byte
  deriving DecidableEq, Repr, Inhabited

/-- Why bytes of a format are not an instruction. -/
inductive DecodeError where
  /-- An operation word with no bytes. -/
  | emptyWord
  /-- A first byte that is no operation code of opcode_table.json. -/
  | unknownCode
  /-- Operand bytes missing or left over. -/
  | badLength
  /-- An endpoint type above 3 (10_state R24). -/
  | badEpType
  /-- A buffer code that names no byte array. -/
  | badBuffer
  /-- A callback code that names no callback. -/
  | badCallback
  /-- A device address above 127 (30_encoding R121: u7). -/
  | badAddress
  /-- A call of the peripheral interface: no instruction of the table (40 R177). -/
  | peripheralCall
  deriving DecidableEq, Repr, Inhabited

end Sys2Proof
end

