-- ==== Sys2Proof/Syntax.lean ====
section
/-!
DEFINITION. The instructions: one constructor per row of spec/opcode_table.json, in the table's order of formats (OP, CTL, HOST, EVT,
RST, SETUP, CLASSREQ, CBW, CDB). A SETUP constructor carries every bit of the eight bytes its row does not fix, the
direction bit first (30_encoding R101, R102).
-/

namespace Sys2Proof

inductive Instr where
  /-- OP 0x01 (R152). -/
  | epOpen (ep : EpAddr) (type : EpType) (mps : BitVec 16) (cb : CallbackId)
  /-- OP 0x02 (R153). -/
  | epClose (ep : EpAddr)
  /-- OP 0x03 (R154). -/
  | epRead (ep : EpAddr) (buf : BufRef) (len : BitVec 32)
  /-- OP 0x04 (R155). -/
  | epWrite (ep : EpAddr) (buf : BufRef) (len : BitVec 32)
  /-- OP 0x05 (R156). -/
  | epWriteZlp (ep : EpAddr)
  /-- OP 0x06 (R157). -/
  | epStall (ep : EpAddr)
  /-- OP 0x07 (R158). -/
  | epDestall (ep : EpAddr)
  /-- OP 0x08 (R159). -/
  | epIsOpen (ep : EpAddr)
  /-- OP 0x09 (R160). -/
  | epIsStalled (ep : EpAddr)
  /-- OP 0x0A (R151). -/
  | pmaAlloc (size : Nat)
  /-- CTL 0x10 (R206). -/
  | ctlSend (buf : BufRef) (len : BitVec 16)
  /-- CTL 0x11 (R207). -/
  | ctlReceive (buf : BufRef) (len : BitVec 16)
  /-- HOST 0x20 (R170). -/
  | hostBusReset
  /-- HOST 0x21 (R171). -/
  | hostSetup (addr : BitVec 7) (bytes : List Byte)
  /-- HOST 0x22 (R172). -/
  | hostOut (addr : BitVec 7) (ep : EpAddr) (bytes : List Byte)
  /-- HOST 0x23 (R173). -/
  | hostIn (addr : BitVec 7) (ep : EpAddr)
  /-- HOST 0x24 (R174). -/
  | hostSuspend
  /-- HOST 0x25 (R175). -/
  | hostResume
  /-- EVT 0x30 (R371). -/
  | evReset
  /-- EVT 0x31 (R336). -/
  | evCtr (ep : EpAddr)
  /-- EVT 0x32 (R243). -/
  | evSuspend
  /-- EVT 0x33 (R244). -/
  | evResume
  /-- RST 0x00 (R372). -/
  | rstPowerOn
  /-- SETUP, device, bRequest 0 (R220). -/
  | getStatusDevice (dir : Bool) (wValue wIndex wLength : BitVec 16)
  /-- SETUP, device, bRequest 1 (R221). -/
  | clearFeatureDevice (dir : Bool) (wValue wIndex wLength : BitVec 16)
  /-- SETUP, device, bRequest 3 (R222). -/
  | setFeatureDevice (dir : Bool) (wValue wIndex wLength : BitVec 16)
  /-- SETUP, device, bRequest 5 (R223). -/
  | setAddress (dir : Bool) (wValue wIndex wLength : BitVec 16)
  /-- SETUP, device, bRequest 6, descriptor type 1 (R225). -/
  | getDescriptorDevice (dir : Bool) (index : Byte) (wIndex wLength : BitVec 16)
  /-- SETUP, device, bRequest 6, descriptor type 2 (R226). -/
  | getDescriptorConfiguration (dir : Bool) (index : Byte) (wIndex wLength : BitVec 16)
  /-- SETUP, device, bRequest 6, descriptor type 3 (R227). -/
  | getDescriptorString (dir : Bool) (index : Byte) (wIndex wLength : BitVec 16)
  /-- SETUP, device, bRequest 6, descriptor type 6 (R228). -/
  | getDescriptorDeviceQualifier (dir : Bool) (index : Byte) (wIndex wLength : BitVec 16)
  /-- SETUP, device, bRequest 6, descriptor type 7 (R228). -/
  | getDescriptorOtherSpeedConfiguration (dir : Bool) (index : Byte) (wIndex wLength : BitVec 16)
  /-- SETUP, device, bRequest 6, any other descriptor type (R224). -/
  | getDescriptorOtherType (dir : Bool) (dtype index : Byte) (wIndex wLength : BitVec 16)
  /-- SETUP, device, bRequest 7 (R231). -/
  | setDescriptor (dir : Bool) (wValue wIndex wLength : BitVec 16)
  /-- SETUP, device, bRequest 8 (R229). -/
  | getConfiguration (dir : Bool) (wValue wIndex wLength : BitVec 16)
  /-- SETUP, device, bRequest 9 (R230). -/
  | setConfiguration (dir : Bool) (wValue wIndex wLength : BitVec 16)
  /-- SETUP, device, bRequest 10 (R231). -/
  | getInterfaceDevice (dir : Bool) (wValue wIndex wLength : BitVec 16)
  /-- SETUP, device, bRequest 11 (R231). -/
  | setInterfaceDevice (dir : Bool) (wValue wIndex wLength : BitVec 16)
  /-- SETUP, device, bRequest 12 (R231). -/
  | synchFrameDevice (dir : Bool) (wValue wIndex wLength : BitVec 16)
  /-- SETUP, device, bRequest 2, 4, 13..255 (R231). -/
  | deviceStandardReserved (dir : Bool) (bRequest : Byte) (wValue wIndex wLength : BitVec 16)
  /-- SETUP, device, type Class, Vendor or reserved (R205, R211, D34). -/
  | deviceClassVendorReserved (dir : Bool) (type : BitVec 2) (bRequest : Byte) (wValue wIndex wLength : BitVec 16)
  /-- SETUP, endpoint, bRequest 0 (R233). -/
  | getStatusEndpoint (dir : Bool) (wValue wIndex wLength : BitVec 16)
  /-- SETUP, endpoint, bRequest 1 (R234). -/
  | clearFeatureEndpoint (dir : Bool) (wValue wIndex wLength : BitVec 16)
  /-- SETUP, endpoint, bRequest 3 (R235). -/
  | setFeatureEndpoint (dir : Bool) (wValue wIndex wLength : BitVec 16)
  /-- SETUP, endpoint, bRequest 12 (R236). -/
  | synchFrameEndpoint (dir : Bool) (wValue wIndex wLength : BitVec 16)
  /-- SETUP, endpoint, any other bRequest (R236). -/
  | endpointStandardOther (dir : Bool) (bRequest : Byte) (wValue wIndex wLength : BitVec 16)
  /-- SETUP, endpoint, type Class, Vendor or reserved (R205, R211, D34). -/
  | endpointClassVendorReserved (dir : Bool) (type : BitVec 2) (bRequest : Byte) (wValue wIndex wLength : BitVec 16)
  /-- SETUP, interface, any type and request (R237). -/
  | setupInterfaceForward (dir : Bool) (type : BitVec 2) (bRequest : Byte) (wValue wIndex wLength : BitVec 16)
  /-- SETUP, recipient Other or reserved (R205, R211). -/
  | setupOtherRecipient (dir : Bool) (type : BitVec 2) (recip : BitVec 5) (bRequest : Byte) (wValue wIndex wLength : BitVec 16)
  /-- CLASSREQ A1 FE (R265). -/
  | getMaxLun (wValue wIndex wLength : BitVec 16)
  /-- CLASSREQ 21 FF with wLength 0 (R265). -/
  | bulkOnlyMassStorageReset (wValue wIndex : BitVec 16)
  /-- CLASSREQ, any other request: the class does not handle it (R265). -/
  | classreqOther (bmRequestType bRequest : Byte) (wValue wIndex wLength : BitVec 16)
  /-- A valid CBW (30_encoding R110, 42 R266, R267). -/
  | cbw (tag dataLength : BitVec 32) (flags cbLength : Byte) (cdb : Vector Byte 16)
  /-- A transfer received as a CBW that fails a check of R110 (42 R266). -/
  | cbwMalformed (bytes : List Byte)
  /-- CDB 0x00 (R273). -/
  | testUnitReady
  /-- CDB 0x03 (R274). -/
  | requestSense
  /-- CDB 0x12 (R277). -/
  | inquiry
  /-- CDB 0x1A (R278). -/
  | modeSense6
  /-- CDB 0x1B (R280). -/
  | startStopUnit
  /-- CDB 0x1E (R281). -/
  | preventAllowMediumRemoval
  /-- CDB 0x23 (R275). -/
  | readFormatCapacities
  /-- CDB 0x25 (R276). -/
  | readCapacity10
  /-- CDB 0x28 (R282). -/
  | read10 (lba : BitVec 32) (count : BitVec 16)
  /-- CDB 0x2A (R283). -/
  | write10 (lba : BitVec 32) (count : BitVec 16)
  /-- CDB 0x2F (R284). -/
  | verify10 (lba : BitVec 32) (count : BitVec 16)
  /-- CDB 0x5A (R279). -/
  | modeSense10
  /-- CDB, any other operation code (R285). -/
  | cdbUnsupported (opcode : Byte)
  deriving DecidableEq, Repr, Inhabited

end Sys2Proof
end

