-- ==== Sys2Proof/Config.lean ====
section
/-!
DEFINITION. What an implementation fixes (00_scope R6) and the values the spec leaves free (93_implementation_defined section 2).
A configuration is plain data: State carries one and no step changes it (assumption log 1). The opaque constants have no
body: a proof holds whatever they are.
-/

namespace Sys2Proof

/-- CTRL_ZLP_POLICY (00_scope R6, D27). -/
inductive ZlpPolicy where
  | alwaysOnMultiple
  | shortOnly
  deriving DecidableEq, Repr, Inhabited

/-- SENSE_OVERFLOW (00_scope R6, D51). -/
inductive SensePolicy where
  | wrap
  | fault
  deriving DecidableEq, Repr, Inhabited

/-- CLASS (10_state R31, D71): the mass-storage class of 42, or an OPAQUE class, which may have the optional data-ready hook
(41 R238, R239). -/
inductive ClassKind where
  | msc
  | other (hasHook : Bool)
  deriving DecidableEq, Repr, Inhabited

/-- What the bytes of STORAGE_INIT are where nothing else is listed: one byte everywhere, or in block b the byte b mod 256
(the content of EXAMPLE_CFG, 00_scope R7). -/
inductive StorageFill where
  | const (b : Byte)
  | blockIndex
  deriving DecidableEq, Repr, Inhabited

/-- The parameters of 00_scope R6. -/
structure Config where
  nEp               : Nat
  pmaSize           : Nat
  pmaBase           : Nat
  ep0Mps            : Nat
  botInEp           : EpAddr
  botOutEp          : EpAddr
  botMps            : Nat
  /-- The double-buffered endpoints, DBUF. -/
  dbuf              : List EpAddr
  maxConfiguration  : Nat
  interfaceCount    : Nat
  selfPowered       : Bool
  cls               : ClassKind
  deviceDesc        : List Byte
  configDesc        : List Byte
  /-- STRINGS: string index and its 8-bit text. -/
  strings           : List (Byte × List Byte)
  serialIndex       : Byte
  uid               : List Byte
  maxStringDescSize : Nat
  zlpPolicy         : ZlpPolicy
  senseOverflow     : SensePolicy
  inquiryData       : List Byte
  storageWrite      : Bool
  /-- STORAGE_MEDIUM: no medium, or the block count. -/
  storageMedium     : Option Nat
  storageFill       : StorageFill
  /-- The bytes of STORAGE_INIT that differ from the fill, by byte address (block * 512 + offset). -/
  storageCells      : List (Nat × Byte)
  deriving DecidableEq, Repr

/-- EXAMPLE_CFG (00_scope R7). -/
def Config.exampleCfg : Config where
  nEp := 8
  pmaSize := 512
  pmaBase := 64
  ep0Mps := 64
  botInEp := ⟨true, 1⟩
  botOutEp := ⟨false, 1⟩
  botMps := 64
  dbuf := []
  maxConfiguration := 1
  interfaceCount := 1
  selfPowered := false
  cls := .msc
  deviceDesc := [0x12, 0x01, 0x00, 0x02, 0x00, 0x00, 0x00, 0x40, 0x09, 0x12, 0x01, 0x00, 0x00, 0x01, 0x01, 0x02, 0x03, 0x01]
  configDesc := [0x09, 0x02, 0x20, 0x00, 0x01, 0x01, 0x00, 0x80, 0x32]
    ++ [0x09, 0x04, 0x00, 0x00, 0x02, 0x08, 0x06, 0x50, 0x00]
    ++ [0x07, 0x05, 0x81, 0x02, 0x40, 0x00, 0x00]
    ++ [0x07, 0x05, 0x01, 0x02, 0x40, 0x00, 0x00]
  strings := [(1, [0x4C, 0x61, 0x6D, 0x62, 0x6F]), (2, [0x4D, 0x53, 0x43])]
  serialIndex := 3
  uid := [0x00, 0x11, 0x22, 0x33, 0x44, 0x55, 0x66, 0x77, 0x88, 0x99, 0xAA, 0xBB]
  maxStringDescSize := 64
  zlpPolicy := .alwaysOnMultiple
  senseOverflow := .wrap
  inquiryData := [0x00, 0x80, 0x02, 0x02, 0x1F, 0x00, 0x00, 0x00]
    ++ [0x4C, 0x61, 0x6D, 0x62, 0x6F, 0x20, 0x20, 0x20]
    ++ [0x4D, 0x61, 0x73, 0x73, 0x20, 0x53, 0x74, 0x6F, 0x72, 0x61, 0x67, 0x65, 0x20, 0x20, 0x20, 0x20]
    ++ [0x30, 0x30, 0x30, 0x31]
  storageWrite := true
  storageMedium := some 100
  storageFill := .blockIndex
  storageCells := []

/-- A thing an OPAQUE class function does (41 R238): it calls an operation of 40 or CTL_SEND/CTL_RECEIVE, or writes a byte of its
own memory (20_memory R72). -/
inductive ClassAct where
  | call (op : Instr)
  | store (addr : BitVec 32) (b : Byte)
  deriving DecidableEq, Repr, Inhabited

/-- One run of an OPAQUE class function: what it does, in order, and, for `setup`, whether it handled the request. -/
structure ClassRun where
  acts    : List ClassAct
  handled : Bool
  deriving DecidableEq, Repr, Inhabited

/-- The byte spaces whose content is unspecified at power-on (10_state R41, U1, U2). -/
inductive Space where
  | pma
  | scratch
  | work
  | cbw
  | csw
  | app
  deriving DecidableEq, Repr, Inhabited

/-- FREE: a byte nothing has written since a power-on (U1, U2): the space, the power-on's number, the address. -/
opaque Config.unspecByte : Space → Nat → Nat → Byte

/-- FREE: a byte left by a failed storage call (U3, U4): the draw's number, the offset in the block. -/
opaque Config.junkByte : Nat → Nat → Byte

/-- FREE: the storage collaborator's answer to a read or write (I9, D60): the draw's number. -/
opaque Config.storageAnswer : Nat → Bool

/-- FREE: what an OPAQUE class function does (D71): the draw's number. -/
opaque Config.classRun : Nat → ClassRun

/-- FREE: which of several pending events the handler services next (U5, D42): the draw's number. -/
opaque Config.serviceChoice : Nat → Nat

end Sys2Proof
end

