-- ==== Sys2Proof/WellFormed.lean ====
section
/-!
DEFINITION. Which instructions are operands within the ranges the rules give (30_encoding R101-R106, R110, R112, R116, R121). A
constructor of a catch-all row is well-formed when no row before it takes the same bytes.
-/

namespace Sys2Proof

/-- The device requests a row of the table names (30_encoding R104). -/
def Instr.namedDeviceRequests : List Byte := [0, 1, 3, 5, 6, 7, 8, 9, 10, 11, 12]

/-- The endpoint requests a row of the table names (30_encoding R104). -/
def Instr.namedEndpointRequests : List Byte := [0, 1, 3, 12]

/-- The descriptor types a row of the table names (30_encoding R105, 41 R224). -/
def Instr.namedDescriptorTypes : List Byte := [1, 2, 3, 6, 7]

/-- The SCSI operation codes of 30_encoding R112. -/
def Instr.namedOpcodes : List Byte :=
  [0x00, 0x03, 0x12, 0x1A, 0x1B, 0x1E, 0x23, 0x25, 0x28, 0x2A, 0x2F, 0x5A]

/-- The two requests the mass-storage class handles (42 R265). -/
def Instr.isMscRequest (bmRequestType bRequest : Byte) (wLength : BitVec 16) : Bool :=
  (bmRequestType == 0xA1 && bRequest == 0xFE) || (bmRequestType == 0x21 && bRequest == 0xFF && wLength == 0)

/-- The checks of 30_encoding R110 on a transfer received as a CBW. -/
def Instr.validCbw (bytes : List Byte) : Bool :=
  bytes.length == 31 && bytes.take 4 == [0x55, 0x53, 0x42, 0x43] && bytes.getD 13 0 == 0
    && decide (1 ≤ (bytes.getD 14 0).toNat) && decide ((bytes.getD 14 0).toNat ≤ 16)

/-- An instruction whose operands lie in the ranges of its row. -/
def Instr.wf : Instr → Bool
  | .pmaAlloc size => decide (size < 2 ^ 32)
  | .hostSetup _ bytes => decide (bytes.length ≤ 64)
  | .hostOut _ ep bytes => !ep.isIn && decide (bytes.length ≤ 1023)
  | .hostIn _ ep => ep.isIn
  | .getDescriptorOtherType _ t _ _ _ => !(namedDescriptorTypes.contains t)
  | .deviceStandardReserved _ r _ _ _ => !(namedDeviceRequests.contains r)
  | .deviceClassVendorReserved _ t _ _ _ _ => t != 0
  | .endpointStandardOther _ r _ _ _ => !(namedEndpointRequests.contains r)
  | .endpointClassVendorReserved _ t _ _ _ _ => t != 0
  | .setupOtherRecipient _ _ r _ _ _ _ => decide (3 ≤ r.toNat)
  | .classreqOther m r _ _ l => !(isMscRequest m r l)
  | .cbw _ _ _ n _ => decide (1 ≤ n.toNat) && decide (n.toNat ≤ 16)
  | .cbwMalformed bytes => !(validCbw bytes)
  | .cdbUnsupported c => !(namedOpcodes.contains c)
  | .epOpen .. | .epClose .. | .epRead .. | .epWrite ..
  | .epWriteZlp .. | .epStall .. | .epDestall .. | .epIsOpen ..
  | .epIsStalled .. | .ctlSend .. | .ctlReceive .. | .hostBusReset ..
  | .hostSuspend .. | .hostResume .. | .evReset .. | .evCtr ..
  | .evSuspend .. | .evResume .. | .rstPowerOn .. | .getStatusDevice ..
  | .clearFeatureDevice .. | .setFeatureDevice .. | .setAddress .. | .getDescriptorDevice ..
  | .getDescriptorConfiguration .. | .getDescriptorString .. | .getDescriptorDeviceQualifier .. | .getDescriptorOtherSpeedConfiguration ..
  | .setDescriptor .. | .getConfiguration .. | .setConfiguration .. | .getInterfaceDevice ..
  | .setInterfaceDevice .. | .synchFrameDevice .. | .getStatusEndpoint .. | .clearFeatureEndpoint ..
  | .setFeatureEndpoint .. | .synchFrameEndpoint .. | .setupInterfaceForward .. | .getMaxLun ..
  | .bulkOnlyMassStorageReset .. | .testUnitReady .. | .requestSense .. | .inquiry ..
  | .modeSense6 .. | .startStopUnit .. | .preventAllowMediumRemoval .. | .readFormatCapacities ..
  | .readCapacity10 .. | .read10 .. | .write10 .. | .verify10 ..
  | .modeSense10 .. => true

end Sys2Proof
end

