-- ==== Sys2Proof/Decode.lean ====
section
/-!
DEFINITION. The decoder, total on any bytes and rejecting by name, and after it the encoder (30_encoding R100-R121). The order of
the wire bytes: USB structures little-endian (20_memory R75), SCSI fields big-endian (R76). The one-byte codes are those of
opcode_table.json; the widths of operands the spec leaves unwritten are assumption log 16.
-/

namespace Sys2Proof

/-! ## Byte order (00_scope R8) -/

/-- Byte `i` of a byte string. -/
def byteAt (bs : List Byte) (i : Nat) : Byte := bs.getD i 0

/-- LE16 of two bytes, first byte first. -/
def le16 (b0 b1 : Byte) : BitVec 16 := b1 ++ b0

/-- LE32 of four bytes, first byte first. -/
def le32 (b0 b1 b2 b3 : Byte) : BitVec 32 := b3 ++ b2 ++ b1 ++ b0

/-- BE16 of two bytes, first byte first. -/
def be16 (b0 b1 : Byte) : BitVec 16 := b0 ++ b1

/-- BE32 of four bytes, first byte first. -/
def be32 (b0 b1 b2 b3 : Byte) : BitVec 32 := b0 ++ b1 ++ b2 ++ b3

/-- Bits `8k+7 .. 8k` of a value. -/
def octet {n : Nat} (v : BitVec n) (k : Nat) : Byte := v.extractLsb' (8 * k) 8

/-- le16(v). -/
def le16Bytes (v : BitVec 16) : List Byte := [octet v 0, octet v 1]

/-- le32(v). -/
def le32Bytes (v : BitVec 32) : List Byte := [octet v 0, octet v 1, octet v 2, octet v 3]

/-- be16(v). -/
def be16Bytes (v : BitVec 16) : List Byte := [octet v 1, octet v 0]

/-- be24(v). -/
def be24Bytes (v : BitVec 24) : List Byte := [octet v 2, octet v 1, octet v 0]

/-- be32(v). -/
def be32Bytes (v : BitVec 32) : List Byte := [octet v 3, octet v 2, octet v 1, octet v 0]

/-! ## Operands (30_encoding R103, R121) -/

/-- EPADDR: bit 7 direction, bits 3:0 number, bits 6:4 ignored (R103). -/
def decodeEp (b : Byte) : EpAddr := ⟨b.getLsbD 7, b.extractLsb' 0 4⟩

/-- The endpoint address byte with its reserved bits 0 (R103). -/
def encodeEp (e : EpAddr) : Byte := BitVec.ofBool e.isIn ++ 0#3 ++ e.num

/-- EpType codes (10_state R24). -/
def decodeEpType (b : Byte) : Option EpType :=
  match b with
  | 0#8 => some .control
  | 1#8 => some .isochronous
  | 2#8 => some .bulk
  | 3#8 => some .interrupt
  | _ => none

def encodeEpType : EpType → Byte
  | .control => 0
  | .isochronous => 1
  | .bulk => 2
  | .interrupt => 3

/-- Callback codes: two bytes, the name and, for CLASS(k), k (assumption log 16). -/
def decodeCallback (c k : Byte) : Option CallbackId :=
  match c with
  | 0#8 => if k = 0 then some .ctrlIn else none
  | 1#8 => if k = 0 then some .ctrlOut else none
  | 2#8 => if k = 0 then some .botIn else none
  | 3#8 => if k = 0 then some .botOut else none
  | 4#8 => some (.cls k)
  | _ => none

def encodeCallback : CallbackId → List Byte
  | .ctrlIn => [0, 0]
  | .ctrlOut => [1, 0]
  | .botIn => [2, 0]
  | .botOut => [3, 0]
  | .cls k => [4, k]

/-- Byte array codes: one byte and, for an array of the class layer, its first address and its length, else zeros (assumption log
16). -/
def decodeArray (c : Byte) (base size : BitVec 32) : Option BufArray :=
  match c with
  | 8#8 => some (.app base size)
  | c =>
    if base ≠ 0 ∨ size ≠ 0 then none
    else
      match c with
      | 0#8 => some .none
      | 1#8 => some .scratch
      | 2#8 => some .work
      | 3#8 => some .cbw
      | 4#8 => some .csw
      | 5#8 => some .maxLun
      | 6#8 => some .deviceDesc
      | 7#8 => some .configDesc
      | _ => none

/-- The code of a byte array. -/
def arrayCode : BufArray → Byte
  | .none => 0
  | .scratch => 1
  | .work => 2
  | .cbw => 3
  | .csw => 4
  | .maxLun => 5
  | .deviceDesc => 6
  | .configDesc => 7
  | .app _ _ => 8

/-- The first address and the length a byte array's code carries. -/
def arrayPlace : BufArray → BitVec 32 × BitVec 32
  | .app base size => (base, size)
  | .none | .scratch | .work | .cbw | .csw | .maxLun | .deviceDesc | .configDesc => (0, 0)

/-- A buffer reference's thirteen bytes: the array's code, the offset, the array's first address, its length (assumption log 16). -/
def decodeBuf (bs : List Byte) : Option BufRef :=
  match bs with
  | [c, o0, o1, o2, o3, a0, a1, a2, a3, n0, n1, n2, n3] =>
    (decodeArray c (le32 a0 a1 a2 a3) (le32 n0 n1 n2 n3)).map (fun a => ⟨a, le32 o0 o1 o2 o3⟩)
  | _ => none

def encodeBuf (b : BufRef) : List Byte :=
  arrayCode b.array :: (le32Bytes b.off ++ le32Bytes (arrayPlace b.array).1 ++ le32Bytes (arrayPlace b.array).2)

/-- A one-byte u7 device address (R121). -/
def decodeAddr (b : Byte) : Option (BitVec 7) := if b.getLsbD 7 then none else some (b.extractLsb' 0 7)

def encodeAddr (a : BitVec 7) : Byte := 0#1 ++ a

/-! ## Operation words: OP, CTL, HOST, EVT, RST (30_encoding R120) -/

/-- An operation with the one operand `ep`. -/
def decodeOneEp (f : EpAddr → Instr) (r : List Byte) : Except DecodeError Instr :=
  match r with
  | [e] => .ok (f (decodeEp e))
  | _ => .error .badLength

/-- An operation without operands. -/
def decodeBare (i : Instr) (r : List Byte) : Except DecodeError Instr :=
  match r with
  | [] => .ok i
  | _ => .error .badLength

/-- EP_OPEN's operands (R152). -/
def decodeEpOpen (r : List Byte) : Except DecodeError Instr :=
  match r with
  | [e, t, m0, m1, c, k] =>
    match decodeEpType t, decodeCallback c k with
    | some ty, some cb => .ok (.epOpen (decodeEp e) ty (le16 m0 m1) cb)
    | none, _ => .error .badEpType
    | _, none => .error .badCallback
  | _ => .error .badLength

/-- The operands of EP_READ and EP_WRITE (R154, R155). -/
def decodeEpBufLen (f : EpAddr → BufRef → BitVec 32 → Instr) (r : List Byte) : Except DecodeError Instr :=
  match r with
  | [e, c, o0, o1, o2, o3, a0, a1, a2, a3, n0, n1, n2, n3, l0, l1, l2, l3] =>
    match decodeBuf [c, o0, o1, o2, o3, a0, a1, a2, a3, n0, n1, n2, n3] with
    | some b => .ok (f (decodeEp e) b (le32 l0 l1 l2 l3))
    | none => .error .badBuffer
  | _ => .error .badLength

/-- The operands of CTL_SEND and CTL_RECEIVE (R206, R207). -/
def decodeBufLen (f : BufRef → BitVec 16 → Instr) (r : List Byte) : Except DecodeError Instr :=
  match r with
  | [c, o0, o1, o2, o3, a0, a1, a2, a3, n0, n1, n2, n3, l0, l1] =>
    match decodeBuf [c, o0, o1, o2, o3, a0, a1, a2, a3, n0, n1, n2, n3] with
    | some b => .ok (f b (le16 l0 l1))
    | none => .error .badBuffer
  | _ => .error .badLength

/-- PMA_ALLOC's operand (R151). -/
def decodeAlloc (r : List Byte) : Except DecodeError Instr :=
  match r with
  | [s0, s1, s2, s3] => .ok (.pmaAlloc (le32 s0 s1 s2 s3).toNat)
  | _ => .error .badLength

/-- HOST_SETUP's operands (R171): the address, then the payload to the end of the word. -/
def decodeHostSetup (r : List Byte) : Except DecodeError Instr :=
  match r with
  | a :: bytes =>
    match decodeAddr a with
    | some addr => .ok (.hostSetup addr bytes)
    | none => .error .badAddress
  | [] => .error .badLength

/-- HOST_OUT's operands (R172): the address, the endpoint, then the payload to the end of the word. -/
def decodeHostOut (r : List Byte) : Except DecodeError Instr :=
  match r with
  | a :: e :: bytes =>
    match decodeAddr a with
    | some addr => .ok (.hostOut addr (decodeEp e) bytes)
    | none => .error .badAddress
  | _ => .error .badLength

/-- HOST_IN's operands (R173). -/
def decodeHostIn (r : List Byte) : Except DecodeError Instr :=
  match r with
  | [a, e] =>
    match decodeAddr a with
    | some addr => .ok (.hostIn addr (decodeEp e))
    | none => .error .badAddress
  | _ => .error .badLength

/-- An operation word: the one-byte code of opcode_table.json, then its operands (R120, R121, 95 section 0). -/
def decodeOp (bs : List Byte) : Except DecodeError Instr :=
  match bs with
  | [] => .error .emptyWord
  | c :: r =>
    match c with
    | 0x00#8 => decodeBare .rstPowerOn r
    | 0x01#8 => decodeEpOpen r
    | 0x02#8 => decodeOneEp .epClose r
    | 0x03#8 => decodeEpBufLen .epRead r
    | 0x04#8 => decodeEpBufLen .epWrite r
    | 0x05#8 => decodeOneEp .epWriteZlp r
    | 0x06#8 => decodeOneEp .epStall r
    | 0x07#8 => decodeOneEp .epDestall r
    | 0x08#8 => decodeOneEp .epIsOpen r
    | 0x09#8 => decodeOneEp .epIsStalled r
    | 0x0A#8 => decodeAlloc r
    | 0x10#8 => decodeBufLen .ctlSend r
    | 0x11#8 => decodeBufLen .ctlReceive r
    | 0x20#8 => decodeBare .hostBusReset r
    | 0x21#8 => decodeHostSetup r
    | 0x22#8 => decodeHostOut r
    | 0x23#8 => decodeHostIn r
    | 0x24#8 => decodeBare .hostSuspend r
    | 0x25#8 => decodeBare .hostResume r
    | 0x30#8 => decodeBare .evReset r
    | 0x31#8 => decodeOneEp .evCtr r
    | 0x32#8 => decodeBare .evSuspend r
    | 0x33#8 => decodeBare .evResume r
    | _ => .error .unknownCode

/-! ## Control requests (30_encoding R101-R106, R116; 41 R205) -/

/-- The bytes of a request from its fields (R101, R102). -/
def setupBytes (dir : Bool) (type : BitVec 2) (recip : BitVec 5) (bRequest : Byte)
    (wValue wIndex wLength : BitVec 16) : Vector Byte 8 :=
  #v[BitVec.ofBool dir ++ type ++ recip, bRequest, octet wValue 0, octet wValue 1, octet wIndex 0, octet wIndex 1,
     octet wLength 0, octet wLength 1]

/-- `dir` of a request's first byte (R102). -/
def reqDir (bmRequestType : Byte) : Bool := bmRequestType.getLsbD 7

/-- `type` of a request's first byte (R102). -/
def reqType (bmRequestType : Byte) : BitVec 2 := bmRequestType.extractLsb' 5 2

/-- `recip` of a request's first byte (R102). -/
def reqRecip (bmRequestType : Byte) : BitVec 5 := bmRequestType.extractLsb' 0 5

/-- GET_DESCRIPTOR by descriptor type (41 R224). -/
def decodeGetDescriptor (dir : Bool) (wValue wIndex wLength : BitVec 16) : Instr :=
  match octet wValue 1 with
  | 1#8 => .getDescriptorDevice dir (octet wValue 0) wIndex wLength
  | 2#8 => .getDescriptorConfiguration dir (octet wValue 0) wIndex wLength
  | 3#8 => .getDescriptorString dir (octet wValue 0) wIndex wLength
  | 6#8 => .getDescriptorDeviceQualifier dir (octet wValue 0) wIndex wLength
  | 7#8 => .getDescriptorOtherSpeedConfiguration dir (octet wValue 0) wIndex wLength
  | t => .getDescriptorOtherType dir t (octet wValue 0) wIndex wLength

/-- A standard request to the device, by bRequest (R104). -/
def decodeDeviceRequest (dir : Bool) (r : Byte) (v i l : BitVec 16) : Instr :=
  match r with
  | 0#8 => .getStatusDevice dir v i l
  | 1#8 => .clearFeatureDevice dir v i l
  | 3#8 => .setFeatureDevice dir v i l
  | 5#8 => .setAddress dir v i l
  | 6#8 => decodeGetDescriptor dir v i l
  | 7#8 => .setDescriptor dir v i l
  | 8#8 => .getConfiguration dir v i l
  | 9#8 => .setConfiguration dir v i l
  | 10#8 => .getInterfaceDevice dir v i l
  | 11#8 => .setInterfaceDevice dir v i l
  | 12#8 => .synchFrameDevice dir v i l
  | r => .deviceStandardReserved dir r v i l

/-- A standard request to an endpoint, by bRequest (R104). -/
def decodeEndpointRequest (dir : Bool) (r : Byte) (v i l : BitVec 16) : Instr :=
  match r with
  | 0#8 => .getStatusEndpoint dir v i l
  | 1#8 => .clearFeatureEndpoint dir v i l
  | 3#8 => .setFeatureEndpoint dir v i l
  | 12#8 => .synchFrameEndpoint dir v i l
  | r => .endpointStandardOther dir r v i l

/-- The eight bytes of a SETUP, in the decode order of R116: recipient, then type, then bRequest. -/
def decodeRequest (b : Vector Byte 8) : Instr :=
  let dir := reqDir b[0]
  let ty := reqType b[0]
  let v := le16 b[2] b[3]
  let i := le16 b[4] b[5]
  let l := le16 b[6] b[7]
  match reqRecip b[0] with
  | 0#5 => if ty = 0 then decodeDeviceRequest dir b[1] v i l else .deviceClassVendorReserved dir ty b[1] v i l
  | 1#5 => .setupInterfaceForward dir ty b[1] v i l
  | 2#5 => if ty = 0 then decodeEndpointRequest dir b[1] v i l else .endpointClassVendorReserved dir ty b[1] v i l
  | r => .setupOtherRecipient dir ty r b[1] v i l

/-- The eight bytes of a request forwarded to the mass-storage class (42 R265). -/
def decodeClassReq (b : Vector Byte 8) : Instr :=
  let v := le16 b[2] b[3]
  let i := le16 b[4] b[5]
  let l := le16 b[6] b[7]
  if b[0] = 0xA1 ∧ b[1] = 0xFE then .getMaxLun v i l
  else if b[0] = 0x21 ∧ b[1] = 0xFF ∧ l = 0 then .bulkOnlyMassStorageReset v i
  else .classreqOther b[0] b[1] v i l

/-! ## CBW and CDB (30_encoding R110, R112) -/

/-- The bytes of a completed CBW read (42 R266): any failing check makes it malformed. -/
def decodeCbw (bs : List Byte) : Instr :=
  if bs.length = 31 ∧ le32 (byteAt bs 0) (byteAt bs 1) (byteAt bs 2) (byteAt bs 3) = 0x43425355
      ∧ byteAt bs 13 = 0 ∧ 1 ≤ (byteAt bs 14).toNat ∧ (byteAt bs 14).toNat ≤ 16 then
    .cbw (le32 (byteAt bs 4) (byteAt bs 5) (byteAt bs 6) (byteAt bs 7))
      (le32 (byteAt bs 8) (byteAt bs 9) (byteAt bs 10) (byteAt bs 11)) (byteAt bs 12) (byteAt bs 14)
      #v[byteAt bs 15, byteAt bs 16, byteAt bs 17, byteAt bs 18, byteAt bs 19, byteAt bs 20, byteAt bs 21, byteAt bs 22,
         byteAt bs 23, byteAt bs 24, byteAt bs 25, byteAt bs 26, byteAt bs 27, byteAt bs 28, byteAt bs 29, byteAt bs 30]
  else .cbwMalformed bs

/-- The sixteen bytes of a CBWCB, by the operation code in byte 0 (R112, 42 R272). -/
def decodeCdb (cdb : Vector Byte 16) : Instr :=
  let lba := be32 cdb[2] cdb[3] cdb[4] cdb[5]
  let count := be16 cdb[7] cdb[8]
  match cdb[0] with
  | 0x00#8 => .testUnitReady
  | 0x03#8 => .requestSense
  | 0x12#8 => .inquiry
  | 0x1A#8 => .modeSense6
  | 0x1B#8 => .startStopUnit
  | 0x1E#8 => .preventAllowMediumRemoval
  | 0x23#8 => .readFormatCapacities
  | 0x25#8 => .readCapacity10
  | 0x28#8 => .read10 lba count
  | 0x2A#8 => .write10 lba count
  | 0x2F#8 => .verify10 lba count
  | 0x5A#8 => .modeSense10
  | o => .cdbUnsupported o

/-! ## Words of any format -/

/-- Eight bytes as a vector, where there are exactly eight. -/
def eightBytes (bs : List Byte) : Option (Vector Byte 8) :=
  if h : bs.length = 8 then some ⟨bs.toArray, by simpa using h⟩ else none

/-- The sixteen bytes of a CBWCB from a CDB of 1 to 16 bytes (30_encoding R100, R118); bytes that are not there are 0 (assumption
log 16). -/
def cdbBytes (bs : List Byte) : Option (Vector Byte 16) :=
  if 1 ≤ bs.length ∧ bs.length ≤ 16 then
    some #v[byteAt bs 0, byteAt bs 1, byteAt bs 2, byteAt bs 3, byteAt bs 4, byteAt bs 5, byteAt bs 6, byteAt bs 7,
            byteAt bs 8, byteAt bs 9, byteAt bs 10, byteAt bs 11, byteAt bs 12, byteAt bs 13, byteAt bs 14, byteAt bs 15]
  else none

/-- The decoder: a word's bytes, read in the word's format. -/
def decode (w : OpWord) : Except DecodeError Instr :=
  match w.fmt with
  | .periph => .error .peripheralCall
  | .op => decodeOp w.bytes
  | .setup =>
    match eightBytes w.bytes with
    | some b => .ok (decodeRequest b)
    | none => .error .badLength
  | .classReq =>
    match eightBytes w.bytes with
    | some b => .ok (decodeClassReq b)
    | none => .error .badLength
  | .cbw => .ok (decodeCbw w.bytes)
  | .cdb =>
    match cdbBytes w.bytes with
    | some c => .ok (decodeCdb c)
    | none => .error .badLength

/-! ## The encoder -/

/-- A request's bytes as a SETUP word. -/
def setupWord (dir : Bool) (type : BitVec 2) (recip : BitVec 5) (bRequest : Byte) (v i l : BitVec 16) : OpWord :=
  ⟨.setup, (setupBytes dir type recip bRequest v i l).toList⟩

/-- GET_DESCRIPTOR's bytes from its descriptor type and index (30_encoding R105). -/
def descriptorWord (dir : Bool) (type index : Byte) (i l : BitVec 16) : OpWord :=
  setupWord dir 0 0 6 (type ++ index) i l

/-- A request's bytes as a CLASSREQ word. -/
def classReqWord (bmRequestType bRequest : Byte) (v i l : BitVec 16) : OpWord :=
  ⟨.classReq, [bmRequestType, bRequest] ++ le16Bytes v ++ le16Bytes i ++ le16Bytes l⟩

/-- A sixteen-byte CDB of which only the operation code is not 0. -/
def bareCdb (opcode : Byte) : OpWord := ⟨.cdb, opcode :: List.replicate 15 0⟩

/-- A sixteen-byte CDB with a block address and a block count (30_encoding R112). -/
def blockCdb (opcode : Byte) (lba : BitVec 32) (count : BitVec 16) : OpWord :=
  ⟨.cdb, [opcode, 0] ++ be32Bytes lba ++ [0] ++ be16Bytes count ++ List.replicate 7 0⟩

/-- The word of an instruction, from the same tables. Bits the block ignores are 0. -/
def encode : Instr → OpWord
  | .epOpen ep ty mps cb => ⟨.op, [0x01, encodeEp ep, encodeEpType ty] ++ le16Bytes mps ++ encodeCallback cb⟩
  | .epClose ep => ⟨.op, [0x02, encodeEp ep]⟩
  | .epRead ep buf len => ⟨.op, [0x03, encodeEp ep] ++ encodeBuf buf ++ le32Bytes len⟩
  | .epWrite ep buf len => ⟨.op, [0x04, encodeEp ep] ++ encodeBuf buf ++ le32Bytes len⟩
  | .epWriteZlp ep => ⟨.op, [0x05, encodeEp ep]⟩
  | .epStall ep => ⟨.op, [0x06, encodeEp ep]⟩
  | .epDestall ep => ⟨.op, [0x07, encodeEp ep]⟩
  | .epIsOpen ep => ⟨.op, [0x08, encodeEp ep]⟩
  | .epIsStalled ep => ⟨.op, [0x09, encodeEp ep]⟩
  | .pmaAlloc size => ⟨.op, 0x0A :: le32Bytes (BitVec.ofNat 32 size)⟩
  | .ctlSend buf len => ⟨.op, 0x10 :: (encodeBuf buf ++ le16Bytes len)⟩
  | .ctlReceive buf len => ⟨.op, 0x11 :: (encodeBuf buf ++ le16Bytes len)⟩
  | .hostBusReset => ⟨.op, [0x20]⟩
  | .hostSetup a bytes => ⟨.op, 0x21 :: encodeAddr a :: bytes⟩
  | .hostOut a ep bytes => ⟨.op, 0x22 :: encodeAddr a :: encodeEp ep :: bytes⟩
  | .hostIn a ep => ⟨.op, [0x23, encodeAddr a, encodeEp ep]⟩
  | .hostSuspend => ⟨.op, [0x24]⟩
  | .hostResume => ⟨.op, [0x25]⟩
  | .evReset => ⟨.op, [0x30]⟩
  | .evCtr ep => ⟨.op, [0x31, encodeEp ep]⟩
  | .evSuspend => ⟨.op, [0x32]⟩
  | .evResume => ⟨.op, [0x33]⟩
  | .rstPowerOn => ⟨.op, [0x00]⟩
  | .getStatusDevice d v i l => setupWord d 0 0 0 v i l
  | .clearFeatureDevice d v i l => setupWord d 0 0 1 v i l
  | .setFeatureDevice d v i l => setupWord d 0 0 3 v i l
  | .setAddress d v i l => setupWord d 0 0 5 v i l
  | .getDescriptorDevice d x i l => descriptorWord d 1 x i l
  | .getDescriptorConfiguration d x i l => descriptorWord d 2 x i l
  | .getDescriptorString d x i l => descriptorWord d 3 x i l
  | .getDescriptorDeviceQualifier d x i l => descriptorWord d 6 x i l
  | .getDescriptorOtherSpeedConfiguration d x i l => descriptorWord d 7 x i l
  | .getDescriptorOtherType d t x i l => descriptorWord d t x i l
  | .setDescriptor d v i l => setupWord d 0 0 7 v i l
  | .getConfiguration d v i l => setupWord d 0 0 8 v i l
  | .setConfiguration d v i l => setupWord d 0 0 9 v i l
  | .getInterfaceDevice d v i l => setupWord d 0 0 10 v i l
  | .setInterfaceDevice d v i l => setupWord d 0 0 11 v i l
  | .synchFrameDevice d v i l => setupWord d 0 0 12 v i l
  | .deviceStandardReserved d r v i l => setupWord d 0 0 r v i l
  | .deviceClassVendorReserved d t r v i l => setupWord d t 0 r v i l
  | .getStatusEndpoint d v i l => setupWord d 0 2 0 v i l
  | .clearFeatureEndpoint d v i l => setupWord d 0 2 1 v i l
  | .setFeatureEndpoint d v i l => setupWord d 0 2 3 v i l
  | .synchFrameEndpoint d v i l => setupWord d 0 2 12 v i l
  | .endpointStandardOther d r v i l => setupWord d 0 2 r v i l
  | .endpointClassVendorReserved d t r v i l => setupWord d t 2 r v i l
  | .setupInterfaceForward d t r v i l => setupWord d t 1 r v i l
  | .setupOtherRecipient d t p r v i l => setupWord d t p r v i l
  | .getMaxLun v i l => classReqWord 0xA1 0xFE v i l
  | .bulkOnlyMassStorageReset v i => classReqWord 0x21 0xFF v i 0
  | .classreqOther m r v i l => classReqWord m r v i l
  | .cbw tag len flags n cdb =>
    ⟨.cbw, [0x55, 0x53, 0x42, 0x43] ++ le32Bytes tag ++ le32Bytes len ++ [flags, 0, n] ++ cdb.toList⟩
  | .cbwMalformed bytes => ⟨.cbw, bytes⟩
  | .testUnitReady => bareCdb 0x00
  | .requestSense => bareCdb 0x03
  | .inquiry => bareCdb 0x12
  | .modeSense6 => bareCdb 0x1A
  | .startStopUnit => bareCdb 0x1B
  | .preventAllowMediumRemoval => bareCdb 0x1E
  | .readFormatCapacities => bareCdb 0x23
  | .readCapacity10 => bareCdb 0x25
  | .read10 lba count => blockCdb 0x28 lba count
  | .write10 lba count => blockCdb 0x2A lba count
  | .verify10 lba count => blockCdb 0x2F lba count
  | .modeSense10 => bareCdb 0x5A
  | .cdbUnsupported o => bareCdb o

/-! ## The host's numbering of the table (assumption log 17) -/

/-- How many operand bytes of zeros the host's one-byte rows are completed with; none for a byte that is no operation code.
HOST_SETUP gets the address and a conforming host's eight bytes. -/
def operandBytes (c : Byte) : Option Nat :=
  match c with
  | 0x00#8 => some 0
  | 0x01#8 => some 6
  | 0x02#8 => some 1
  | 0x03#8 => some 18
  | 0x04#8 => some 18
  | 0x05#8 => some 1
  | 0x06#8 => some 1
  | 0x07#8 => some 1
  | 0x08#8 => some 1
  | 0x09#8 => some 1
  | 0x0A#8 => some 4
  | 0x10#8 => some 15
  | 0x11#8 => some 15
  | 0x20#8 => some 0
  | 0x21#8 => some 9
  | 0x22#8 => some 2
  | 0x23#8 => some 2
  | 0x24#8 => some 0
  | 0x25#8 => some 0
  | 0x30#8 => some 0
  | 0x31#8 => some 1
  | 0x32#8 => some 0
  | 0x33#8 => some 0
  | _ => none

/-- A row's bits as a word of the block. Eight bits are an operation code, or else a SCSI operation code; sixteen bits are the
key bmRequestType << 8 | bRequest, of a class request for the two keys of the CLASSREQ rows, else of a SETUP; thirty-two bits are
the CBW signature. Everything after those bits is 0. -/
def tableWord (nbits w : Nat) : OpWord :=
  match nbits with
  | 8 =>
    match operandBytes (BitVec.ofNat 8 w) with
    | some n => ⟨.op, BitVec.ofNat 8 w :: List.replicate n 0⟩
    | none => bareCdb (BitVec.ofNat 8 w)
  | 16 =>
    ⟨if w = 0xA1FE ∨ w = 0x21FF then .classReq else .setup,
      [BitVec.ofNat 8 (w / 256), BitVec.ofNat 8 w] ++ List.replicate 6 0⟩
  | 32 => ⟨.cbw, le32Bytes (BitVec.ofNat 32 w) ++ List.replicate 27 0⟩
  | _ => ⟨.op, []⟩

/-- The instruction the decoder reads from a row's bits. -/
def decodeTableWord (nbits w : Nat) : Option Instr := (decode (tableWord nbits w)).toOption

end Sys2Proof
end

