-- ==== Sys2Proof/Machine/State.lean ====
section
/-!
DEFINITION. The state of the block (10_state R20) as plain data, the reasons a step can stop, and the state right after power-on
(10_state R41). Byte spaces are lists of cells in canonical form (addresses rising); what an unlisted byte reads as is said in
Machine/Ops.lean.
-/

namespace Sys2Proof.Machine

/-- A byte space: the bytes something has written, by address. -/
abbrev Mem := List Host.Cell

/-- FaultReason (60_exceptions R331). The first four are the spec's; the last three name accesses that the spec says cannot
arise (20_memory R71, R72; 42 R264) and that no run of a conforming class reaches (assumption logs 14, 15). -/
inductive FaultReason where
  /-- Code 1: an allocation would pass PMA_SIZE. -/
  | pmaOverflow
  /-- Code 2: an engine operation on a closed endpoint. -/
  | epNotOpen
  /-- Code 3: a sense push fills the ring under SENSE_OVERFLOW = FAULT. -/
  | senseOverflow
  /-- Code 4: an operand outside the interface contract. -/
  | badOperand
  /-- The model's: a transfer posted on, or a byte written to, a buffer that has no such bytes (20_memory R72). -/
  | bufOverrun
  /-- The model's: a packet region outside packet memory (20_memory R71). -/
  | pmaRange
  /-- The model's: a storage call on a block the medium does not have (42 R264). -/
  | blockRange
  deriving DecidableEq, Repr, Inhabited

/-- Why an agent has no such step (00_scope R11). -/
inductive NoStep where
  /-- The device is Suspended; the host makes no transaction (D20). -/
  | suspended
  /-- The peripheral is stopped (R170, R174, R175). -/
  | notStarted
  /-- HOST_RESUME with nothing to resume (R175). -/
  | notSuspended
  /-- The event is not pending (60 R336). -/
  | notPending
  /-- A bus reset is pending and must be serviced first (60 R335). -/
  | resetFirst
  /-- A payload longer than the endpoint's packets (D20). -/
  | oversizedPacket
  /-- HOST_OUT to an IN address or HOST_IN to an OUT address (30_encoding R121). -/
  | wrongDirection
  deriving DecidableEq, Repr, Inhabited

/-- How a step stops the machine. -/
inductive Fault where
  /-- The sticky fault is already set: no agent has a step (60 R330). Raised by every meaning. Safe. -/
  | stopped (r : FaultReason)
  /-- The agent's guard is false: the spec has no such step (00 R11, U13). Raised by HOST and EVT meanings. Safe. -/
  | noStep (why : NoStep)
  deriving DecidableEq, Repr, Inhabited

/-- Why a step has no meaning. -/
inductive Refusal where
  /-- The instruction has no meaning yet. Raised by exec's refused arms only. Safe. -/
  | notModelled (mnemonic : String)
  /-- The next word of the schedule is of none of the formats the block handles, so the spec gives it no effect (30_encoding R100,
  R120, R121). Raised by step. Safe. -/
  | undecodable (e : DecodeError)
  /-- The configuration is not well-formed (00_scope R6, R11; 70 R374). Raised by step. Safe. -/
  | configRefused
  deriving DecidableEq, Repr, Inhabited

/-- Endpoint record `E[ep]` (10_state R22). -/
structure EpRec where
  isOpen      : Bool
  type        : EpType
  mps         : Nat
  dbuf        : Bool
  off0        : Nat
  off1        : Nat
  stalled     : Bool
  buf         : BufRef
  remaining   : Nat
  transferred : Nat
  callback    : Option CallbackId
  active      : Bool
  inflight    : Nat
  deriving DecidableEq, Repr, Inhabited

/-- Handshake of an endpoint (10_state R25). -/
inductive EpStat where
  | disabled
  | stall
  | nak
  | valid
  deriving DecidableEq, Repr, Inhabited

/-- Peripheral endpoint status `H[ep]` (10_state R25). -/
structure EpHw where
  stat   : EpStat
  dtog   : Bool
  count  : Nat
  ctr    : Bool
  setup  : Bool
  bufSel : Bool
  deriving DecidableEq, Repr, Inhabited

/-- Peripheral globals (10_state R26). -/
structure Periph where
  started     : Bool
  hwAddress   : BitVec 7
  pendReset   : Bool
  pendSuspend : Bool
  pendResume  : Bool
  deriving DecidableEq, Repr, Inhabited

/-- Device state (10_state R29). -/
inductive DevState where
  | default
  | addressed
  | configured
  | suspended
  deriving DecidableEq, Repr, Inhabited

/-- Control sub-state (10_state R30). -/
inductive CtrlState where
  | idle
  | setup
  | dataIn
  | dataOut
  | statusIn
  | statusOut
  | stall
  deriving DecidableEq, Repr, Inhabited

/-- Control session (10_state R28). -/
structure Control where
  devState     : DevState
  savedState   : DevState
  address      : BitVec 7
  pendingAddr  : Option (BitVec 7)
  config       : BitVec 16
  remoteWakeup : Bool
  ctrlState    : CtrlState
  req          : Vector Byte 8
  ctrlLen      : Nat
  zlpPending   : Bool
  classActive  : Bool
  scratch      : Mem
  deriving DecidableEq, Repr

/-- ScsiState (10_state R32). -/
inductive ScsiState where
  | ok
  | error
  | sendData
  | dataOut
  | dataIn
  | lastDataIn
  deriving DecidableEq, Repr, Inhabited

/-- SCSI context (10_state R32, R33). -/
structure Scsi where
  medium       : Bool
  totalBlocks  : Nat
  writeCapable : Bool
  blkAddr      : Nat
  blkLen       : Nat
  state        : ScsiState
  work         : Mem
  respLen      : Nat
  senseKey     : Vector Byte 4
  senseAsc     : Vector Byte 4
  senseHead    : Fin 4
  senseTail    : Fin 4
  deriving DecidableEq, Repr

/-- BOT state (10_state R35). -/
inductive BotState where
  | idle
  | dataSend
  | dataZlp
  | dataIn
  | dataInLast
  | dataOut
  | status
  | stalled
  deriving DecidableEq, Repr, Inhabited

/-- BOT sequencer (10_state R34). -/
structure Bot where
  state      : BotState
  cbwBuf     : Mem
  cswBuf     : Mem
  tag        : BitVec 32
  dataLength : Nat
  flags      : Byte
  residue    : Nat
  zlp        : Bool
  deriving DecidableEq, Repr

/-- What the host gets from a transaction (10_state R42, 30_encoding R130): no answer, a handshake, or a data packet with its
toggle. -/
inductive HostOutcome where
  | none
  | nak
  | stall
  | ack
  | data (dtog : Bool) (bytes : List Byte)
  deriving DecidableEq, Repr, Inhabited

/-- What an operation returns to its caller (40 R151, R159, R160). -/
inductive RetVal where
  | unit
  | bool (b : Bool)
  | offset (n : Nat)
  deriving DecidableEq, Repr, Inhabited

/-- A call to a function of an OPAQUE class, with its arguments (41 R238, R239; 40 R165). -/
inductive ClassCall where
  | init (config : BitVec 16)
  | deinit
  | setup (req : Vector Byte 8)
  | dataReady
  | callback (k : Byte) (ep : EpAddr) (n : Nat)
  deriving DecidableEq, Repr

/-- The state: the tuple of 10_state R20, the class layer's buffers (20_memory R72), the launch configuration, and the model's own
fields. The endpoint tables have a slot for each of the 32 addresses; numbers from N_EP up are never opened. -/
structure State where
  /-- The launch configuration; no step writes it (00_scope R6, assumption log 1). -/
  cfg       : Config
  fault     : Option FaultReason
  pmaNext   : Nat
  pma       : Mem
  eps       : Vector EpRec 32
  hws       : Vector EpHw 32
  periph    : Periph
  ctl       : Control
  scsi      : Scsi
  bot       : Bot
  /-- The storage collaborator's bytes that differ from STORAGE_INIT, by block * 512 + offset (10_state R36). -/
  blocks    : Mem
  /-- The class layer's memory (20_memory R72). -/
  app       : Mem
  /-- Model: the schedule of agent steps to come (30_encoding R130, assumption log 2). -/
  script    : List OpWord
  /-- Model: the storage answers to come; past their end each answer is a free value (42 R264, assumption log 11). -/
  answers   : List Bool
  /-- Model: what the next OPAQUE class functions do; past their end a free value (41 R238, assumption log 13). -/
  classRuns : List ClassRun
  /-- Model: how many free values have been used. -/
  draws     : Nat
  /-- Model: how many power-ons there have been (assumption log 9). -/
  epoch     : Nat
  /-- Model: the outcome of the last host transaction (10_state R42, assumption log 23). -/
  lastOut   : HostOutcome
  /-- Model: the value the last query or allocation returned (assumption log 23). -/
  ret       : RetVal
  /-- Model: the calls made to OPAQUE class functions, newest first (assumption log 23). -/
  calls     : List ClassCall
  deriving DecidableEq, Repr

/-- A closed record with every other field 0 (10_state R41). -/
def EpRec.closed : EpRec :=
  ⟨false, .control, 0, false, 0, 0, false, .none, 0, 0, none, false, 0⟩

/-- A disabled endpoint status with every other field 0 (10_state R41). -/
def EpHw.disabled : EpHw := ⟨.disabled, false, 0, false, false, false⟩

/-- A record of the control pair after power-on (10_state R41). R41 gives `buf` and `pma_off[1]` of the pair no value: they are `none`
and 0 (assumption log 33). -/
def EpRec.control (mps off : Nat) (cb : CallbackId) : EpRec :=
  { EpRec.closed with isOpen := true, mps := mps, off0 := off, callback := some cb }

/-- The state after power-on under a configuration, by the table of 10_state R41. The sense slots, unspecified there, are 0
(assumption log 10). -/
def State.powerOn (cfg : Config) : State where
  cfg := cfg
  fault := none
  pmaNext := cfg.pmaBase + 2 * cfg.ep0Mps
  pma := []
  eps := ((Vector.replicate 32 EpRec.closed).set 0 (EpRec.control cfg.ep0Mps cfg.pmaBase .ctrlOut)).set 16
    (EpRec.control cfg.ep0Mps (cfg.pmaBase + cfg.ep0Mps) .ctrlIn)
  hws := ((Vector.replicate 32 EpHw.disabled).set 0 { EpHw.disabled with stat := .valid }).set 16
    { EpHw.disabled with stat := .nak }
  periph := ⟨true, 0, false, false, false⟩
  ctl := ⟨.default, .default, 0, none, 0, false, .idle, #v[0, 0, 0, 0, 0, 0, 0, 0], 0, false, false, []⟩
  scsi := ⟨false, 0, false, 0, 0, .ok, [], 0, #v[0, 0, 0, 0], #v[0, 0, 0, 0], 0, 0⟩
  bot := ⟨.idle, [], [], 0, 0, 0, 0, false⟩
  blocks := []
  app := []
  script := []
  answers := []
  classRuns := []
  draws := 0
  epoch := 0
  lastOut := .none
  ret := .unit
  calls := []

/-- The machine right after power-on under EXAMPLE_CFG (assumption log 1). -/
def State.reset : State := State.powerOn Config.exampleCfg

end Sys2Proof.Machine
end

