-- ==== Sys2Proof/Machine/Ops.lean ====
section
/-!
DEFINITION. The named operations every meaning is built from: raising the sticky fault, sequencing within a step, the byte spaces, the
endpoint tables, the draws. An operation is a function of the state; once the sticky fault is set, the operations after
it in the same step do nothing (60_exceptions R330).
-/

namespace Sys2Proof.Machine

/-! ## Faults and sequencing (60_exceptions R330) -/

/-- The outcome of a step of this machine. -/
abbrev StepResult := Host.Outcome State Fault Refusal

/-- `raise Fault(r)`: the first fault is kept; the writes made before it stay (R330). -/
def State.raise (s : State) (r : FaultReason) : State :=
  match s.fault with
  | none => { s with fault := some r }
  | some _ => s

/-- The rest `f` of a step, run only if nothing has raised a fault (R330). -/
def State.andThen (s : State) (f : State → State) : State :=
  match s.fault with
  | none => f s
  | some _ => s

/-- Write packet memory (20_memory R71). -/
def State.modPma (s : State) (f : Mem → Mem) : State := { s with pma := f s.pma }

/-- Write the storage blocks (20_memory R73). -/
def State.modBlocks (s : State) (f : Mem → Mem) : State := { s with blocks := f s.blocks }

/-- Write the class layer's memory (20_memory R72). -/
def State.modApp (s : State) (f : Mem → Mem) : State := { s with app := f s.app }

/-- Write the allocator's offset (10_state R27). -/
def State.setPmaNext (s : State) (n : Nat) : State := { s with pmaNext := n }

/-- The value an operation returns to its caller (40 R151, R159, R160). -/
def State.returning (s : State) (v : RetVal) : State := { s with ret := v }

/-- A step of an agent: none once the fault is set (R330), else the state `f` leaves. -/
def agentStep (s : State) (f : State → State) : StepResult :=
  match s.fault with
  | none => .next (f s)
  | some r => .fault (.stopped r)

/-- A step of an agent with a guard: `why s` says which guard is false, if any (00_scope R11). -/
def guardedStep (s : State) (why : State → Option NoStep) (f : State → State) : StepResult :=
  match s.fault with
  | some r => .fault (.stopped r)
  | none =>
    match why s with
    | some w => .fault (.noStep w)
    | none => .next (f s)

/-! ## Byte spaces (20_memory R70-R73) -/

/-- The byte a space holds at an address, if something has written it. -/
def memGet : Mem → Nat → Option Byte
  | [], _ => none
  | (a, b) :: m, k => if a = k then some b else memGet m k

/-- The cells of a byte string placed at an address. -/
def cellsFrom : Nat → List Byte → Mem
  | _, [] => []
  | a, b :: bs => (a, b) :: cellsFrom (a + 1) bs

/-- Write a byte string at an address: the cells below it, its own, the cells above it. -/
def memWrite (m : Mem) (a : Nat) (bs : List Byte) : Mem :=
  m.filter (fun c => decide (c.1 < a)) ++ cellsFrom a bs ++ m.filter (fun c => decide (a + bs.length ≤ c.1))

/-- Write a byte string at an address of a space whose unlisted bytes read as `d`: a byte equal to `d` is not listed. -/
def memWriteOver (d : Nat → Byte) (m : Mem) (a : Nat) (bs : List Byte) : Mem :=
  m.filter (fun c => decide (c.1 < a)) ++ (cellsFrom a bs).filter (fun c => c.2 != d c.1)
    ++ m.filter (fun c => decide (a + bs.length ≤ c.1))

/-- Addresses rise strictly, from `lo` on. -/
def memRises : Nat → Mem → Bool
  | _, [] => true
  | lo, (a, _) :: m => decide (lo ≤ a) && memRises (a + 1) m

/-- The canonical form of a space in which an unlisted byte is one nothing has written. -/
def memWf (m : Mem) : Bool := memRises 0 m

/-- The canonical form of a space whose unlisted bytes read as `d`. -/
def memWfOver (d : Nat → Byte) (m : Mem) : Bool := memRises 0 m && m.all (fun c => c.2 != d c.1)

/-- What a byte space reads as at an address: the byte written there, or a free value (assumption log 9). -/
def byteOf (sp : Space) (epoch : Nat) (m : Mem) (a : Nat) : Byte := (memGet m a).getD (Config.unspecByte sp epoch a)

/-- The bytes of a space from an address on. -/
def bytesOf (sp : Space) (epoch : Nat) (m : Mem) (a n : Nat) : List Byte :=
  (List.range n).map (fun i => byteOf sp epoch m (a + i))

/-- `PMA[a]` (R71). -/
def pmaByte (s : State) (a : Nat) : Byte := byteOf .pma s.epoch s.pma a

/-- `PmaRead(off, n)` (R71). -/
def pmaRead (s : State) (off n : Nat) : List Byte := bytesOf .pma s.epoch s.pma off n

/-- `PmaWrite(off, bytes)` (R71). A range outside packet memory cannot arise; where it would, the model faults
(assumption log 15). -/
def pmaWrite (off : Nat) (bytes : List Byte) (s : State) : State :=
  if off + bytes.length ≤ s.cfg.pmaSize then s.modPma (fun m => memWrite m off bytes) else s.raise .pmaRange

/-- The byte STORAGE_INIT puts at byte address `a` of the storage (00_scope R6, R7). -/
def storageInit (c : Config) (a : Nat) : Byte :=
  (memGet c.storageCells a).getD
    (match c.storageFill with
     | .const b => b
     | .blockIndex => BitVec.ofNat 8 (a / 512))

/-- Byte `a` of the storage blocks (R73). -/
def storageByte (s : State) (a : Nat) : Byte := (memGet s.blocks a).getD (storageInit s.cfg a)

/-- `blocks[b]`: the 512 bytes of a block (R73). -/
def storageBlock (s : State) (b : Nat) : List Byte := (List.range 512).map (fun i => storageByte s (512 * b + i))

/-- `blocks[b] <- bytes` (R73). -/
def setStorageBlock (b : Nat) (bytes : List Byte) (s : State) : State :=
  s.modBlocks (fun m => memWriteOver (storageInit s.cfg) m (512 * b) bytes)

/-! ## The endpoint tables (10_state R22, R25) -/

/-- The slot of an endpoint address: OUT addresses first, then IN addresses. -/
def epSlot (a : EpAddr) : Fin 32 :=
  if a.isIn then ⟨16 + a.num.toNat, by have := a.num.isLt; omega⟩ else ⟨a.num.toNat, by have := a.num.isLt; omega⟩

/-- Control OUT, address 0x00 (41 R200). -/
def ctlOut : EpAddr := ⟨false, 0⟩

/-- Control IN, address 0x80 (41 R200). -/
def ctlIn : EpAddr := ⟨true, 0⟩

/-- `E[a]`. -/
def State.ep (s : State) (a : EpAddr) : EpRec := s.eps[(epSlot a).val]'(epSlot a).isLt

/-- `H[a]`. -/
def State.hw (s : State) (a : EpAddr) : EpHw := s.hws[(epSlot a).val]'(epSlot a).isLt

/-- Write fields of `E[a]`. -/
def State.modEp (s : State) (a : EpAddr) (f : EpRec → EpRec) : State :=
  { s with eps := s.eps.set (epSlot a).val (f (s.ep a)) (epSlot a).isLt }

/-- Write fields of `H[a]`. -/
def State.modHw (s : State) (a : EpAddr) (f : EpHw → EpHw) : State :=
  { s with hws := s.hws.set (epSlot a).val (f (s.hw a)) (epSlot a).isLt }

/-- The same write to every entry of a table. -/
def mapTable {α β : Type} (f : α → β) (v : Vector α 32) : Vector β 32 :=
  ⟨(v.toList.map f).toArray, by simp⟩

/-- Write fields of every `E[ep]`. -/
def State.modEps (s : State) (f : EpRec → EpRec) : State := { s with eps := mapTable f s.eps }

/-- Write fields of every `H[ep]`. -/
def State.modHws (s : State) (f : EpHw → EpHw) : State := { s with hws := mapTable f s.hws }

/-- The endpoint number exists (10_state R22). -/
def epExists (c : Config) (a : EpAddr) : Bool := decide (a.num.toNat < c.nEp)

/-- DBUF(ep) (00_scope R6). -/
def isDbuf (c : Config) (a : EpAddr) : Bool := c.dbuf.contains a

/-! ## The other groups of fields -/

/-- Write peripheral globals (10_state R26). -/
def State.modPeriph (s : State) (f : Periph → Periph) : State := { s with periph := f s.periph }

/-- Write control session fields (10_state R28). -/
def State.modCtl (s : State) (f : Control → Control) : State := { s with ctl := f s.ctl }

/-- Write SCSI context fields (10_state R32). -/
def State.modScsi (s : State) (f : Scsi → Scsi) : State := { s with scsi := f s.scsi }

/-- Write BOT sequencer fields (10_state R34). -/
def State.modBot (s : State) (f : Bot → Bot) : State := { s with bot := f s.bot }

/-- The outcome the host gets from its transaction (10_state R42). -/
def State.answer (s : State) (o : HostOutcome) : State := { s with lastOut := o }

/-! ## The peripheral interface (40 R177, 60 R341) -/

/-- `peripheral.set_address(a)` (R177). -/
def setHwAddress (a : BitVec 7) (s : State) : State := s.modPeriph (fun p => { p with hwAddress := a })

/-- `peripheral.init()` (R177, 70 R372): every endpoint status DISABLED and zero, address 0, nothing pending. -/
def peripheralInit (s : State) : State :=
  (s.modPeriph (fun p => { p with hwAddress := 0, pendReset := false, pendSuspend := false, pendResume := false })).modHws
    (fun _ => EpHw.disabled)

/-- `peripheral.start()` (R177, D77). -/
def peripheralStart (s : State) : State := s.modPeriph (fun p => { p with started := true })

/-- `peripheral.stop()` (R177, D77): it clears `periph_started` and nothing else. -/
def peripheralStop (s : State) : State := s.modPeriph (fun p => { p with started := false })

/-! ## Draws (00_scope R9; 93 U3, U4, I9) -/

/-- The storage collaborator's next answer: the next one given, else a free value (42 R264, assumption log 11). -/
def nextAnswer (s : State) : Bool :=
  match s.answers with
  | b :: _ => b
  | [] => Config.storageAnswer s.draws

/-- The answer has been used. -/
def useAnswer (s : State) : State :=
  match s.answers with
  | _ :: rest => { s with answers := rest }
  | [] => { s with draws := s.draws + 1 }

/-- 512 bytes a failed storage call may leave (U3, U4). -/
def junkBlock (s : State) : List Byte := (List.range 512).map (fun i => Config.junkByte s.draws i)

/-- Those bytes have been used. -/
def useDraw (s : State) : State := { s with draws := s.draws + 1 }

/-- What the next OPAQUE class function does: the next run given, else a free value (41 R238, assumption log 13). -/
def nextClassRun (s : State) : ClassRun :=
  match s.classRuns with
  | r :: _ => r
  | [] => Config.classRun s.draws

/-- The run has been used. -/
def useClassRun (s : State) : State :=
  match s.classRuns with
  | _ :: rest => { s with classRuns := rest }
  | [] => { s with draws := s.draws + 1 }

end Sys2Proof.Machine
end

