-- ==== Sys2Proof/Machine/Operands.lean ====
section
/-!
DEFINITION. Every operand form: buffer references (20_memory R72), the endpoint an endpoint request names (41 R232), the responses built
from the configuration (30_encoding R108, R109, R113-R115; 41 R240, R241), and the well-formedness of a configuration (00_scope R6).
-/

namespace Sys2Proof.Machine

/-! ## Derived parameters -/

/-- CTRL_BUF_SIZE (00_scope R6, D73). -/
def ctrlBufSize (c : Config) : Nat := max c.maxStringDescSize c.ep0Mps

/-- CBW_READ_LEN (10_state R34, D79). -/
def cbwReadLen (c : Config) : Nat := max c.botMps 32

/-! ## Buffers -/

/-- How many bytes a byte array has (R70, R72; 10_state R28, R32, R34). -/
def arraySize (c : Config) : BufArray → Nat
  | .none => 0
  | .scratch => ctrlBufSize c
  | .work => 512
  | .cbw => cbwReadLen c
  | .csw => 13
  | .maxLun => 1
  | .deviceDesc => c.deviceDesc.length
  | .configDesc => c.configDesc.length
  | .app _ size => size.toNat

/-- A byte array that can be written: the response constants cannot. -/
def arrayWritable : BufArray → Bool
  | .scratch | .work | .cbw | .csw | .app _ _ => true
  | .none | .maxLun | .deviceDesc | .configDesc => false

/-- A buffer holds `n` bytes that a transfer may send: they do not reach past the end of its array (R72). -/
def readFits (c : Config) (b : BufRef) (n : Nat) : Bool := decide (n = 0 ∨ b.off.toNat + n ≤ arraySize c b.array)

/-- A buffer holds `n` bytes that a transfer may fill (R72). -/
def writeFits (c : Config) (b : BufRef) (n : Nat) : Bool :=
  decide (n = 0 ∨ arrayWritable b.array = true ∧ b.off.toNat + n ≤ arraySize c b.array)

/-- Byte `k` of a byte array. MAX_LUN_BYTE is the constant 0 (42 R265); beyond an array's bytes nothing is written, so the byte is a
free value. -/
def arrayByte (s : State) (a : BufArray) (k : Nat) : Byte :=
  match a with
  | .none => Config.unspecByte .app s.epoch k
  | .scratch => byteOf .scratch s.epoch s.ctl.scratch k
  | .work => byteOf .work s.epoch s.scsi.work k
  | .cbw => byteOf .cbw s.epoch s.bot.cbwBuf k
  | .csw => byteOf .csw s.epoch s.bot.cswBuf k
  | .maxLun => ([0] : List Byte)[k]?.getD (Config.unspecByte .app s.epoch k)
  | .deviceDesc => s.cfg.deviceDesc[k]?.getD (Config.unspecByte .app s.epoch k)
  | .configDesc => s.cfg.configDesc[k]?.getD (Config.unspecByte .app s.epoch k)
  | .app base _ => byteOf .app s.epoch s.app (base.toNat + k)

/-- Byte `i` of a buffer: of its array, from its offset on (R72). -/
def bufByte (s : State) (b : BufRef) (i : Nat) : Byte := arrayByte s b.array (i + b.off.toNat)

/-- `MemRead(buf, off, n)` (R72). -/
def bufRead (s : State) (b : BufRef) (off n : Nat) : List Byte := (List.range n).map (fun i => bufByte s b (off + i))

/-- Bytes are written to a byte array from `k` on. -/
def arrayWrite (a : BufArray) (k : Nat) (bytes : List Byte) (s : State) : State :=
  match a with
  | .scratch => s.modCtl (fun c => { c with scratch := memWrite c.scratch k bytes })
  | .work => s.modScsi (fun c => { c with work := memWrite c.work k bytes })
  | .cbw => s.modBot (fun c => { c with cbwBuf := memWrite c.cbwBuf k bytes })
  | .csw => s.modBot (fun c => { c with cswBuf := memWrite c.cswBuf k bytes })
  | .app base _ => s.modApp (fun m => memWrite m (base.toNat + k) bytes)
  | .none | .maxLun | .deviceDesc | .configDesc => if bytes = [] then s else s.raise .bufOverrun

/-- `MemWrite(buf, off, bytes)` (R72). -/
def bufWrite (b : BufRef) (off : Nat) (bytes : List Byte) (s : State) : State :=
  arrayWrite b.array (off + b.off.toNat) bytes s

/-! ## Requests -/

/-- The endpoint address an endpoint request names: `wIndex[7:0]`, bits 6:4 ignored (41 R232, 30_encoding R103). -/
def requestEp (wIndex : BitVec 16) : EpAddr := decodeEp (octet wIndex 0)

/-- endpoint_legal() (41 R232). -/
def endpointLegal (s : State) (e : EpAddr) : Bool :=
  match s.ctl.devState with
  | .addressed => e.num == 0
  | .configured => epExists s.cfg e && (s.ep e).isOpen
  | .default | .suspended => false

/-- The interface number an interface request names: `wIndex[7:0]` (41 R237, D33). -/
def requestInterface (wIndex : BitVec 16) : Nat := (octet wIndex 0).toNat

/-! ## Responses -/

/-- string_desc(t) (41 R240). -/
def stringDesc (t : List Byte) : List Byte :=
  [BitVec.ofNat 8 (2 + 2 * t.length), 0x03] ++ (t.map (fun ch => [ch, (0 : Byte)])).flatten

/-- HEX(v) = "0123456789ABCDEF"[v] (41 R241). -/
def hexDigit (v : BitVec 4) : Byte := if v.toNat < 10 then BitVec.ofNat 8 (0x30 + v.toNat) else BitVec.ofNat 8 (0x37 + v.toNat)

/-- The serial number's text: each byte as two digits, high nibble first (41 R241, D37). -/
def serialText (uid : List Byte) : List Byte :=
  (uid.map (fun b => [hexDigit (b.extractLsb' 4 4), hexDigit (b.extractLsb' 0 4)])).flatten

/-- serial_desc() (41 R241). -/
def serialDesc (c : Config) : List Byte := stringDesc (serialText c.uid)

/-- The text STRINGS gives an index. -/
def stringOf (strings : List (Byte × List Byte)) (i : Byte) : Option (List Byte) :=
  match strings with
  | [] => none
  | (k, t) :: rest => if k = i then some t else stringOf rest i

/-- The descriptor of a string index: the language descriptor, the serial number, or a text (41 R227). -/
def stringResponse (c : Config) (i : Byte) : Option (List Byte) :=
  if i = 0 then some [0x04, 0x03, 0x09, 0x04]
  else if i = c.serialIndex then some (serialDesc c)
  else (stringOf c.strings i).map stringDesc

/-- The sense response for a popped entry, or for none (30_encoding R113). -/
def senseResponse : Option (Byte × Byte) → List Byte
  | none => List.replicate 18 0
  | some (key, asc) => [0x70, 0, key, 0, 0, 0, 0, 0x0A, 0, 0, 0, 0, asc, 0, 0, 0, 0, 0]

/-- READ CAPACITY(10): last block address modulo 2^32, block length (30_encoding R114, 42 R276). -/
def capacityResponse (totalBlocks : Nat) : List Byte :=
  be32Bytes (BitVec.ofNat 32 totalBlocks - 1) ++ be32Bytes 512

/-- READ FORMAT CAPACITIES (30_encoding R114, 42 R275). -/
def formatCapacityResponse (totalBlocks : Nat) : List Byte :=
  [0, 0, 0, 8] ++ be32Bytes (BitVec.ofNat 32 totalBlocks) ++ [0x02] ++ be24Bytes 512

/-- The CSW (30_encoding R111, 42 R269). -/
def cswBytes (tag : BitVec 32) (residue : Nat) (status : Byte) : List Byte :=
  le32Bytes 0x53425355 ++ le32Bytes tag ++ le32Bytes (BitVec.ofNat 32 residue) ++ [status]

/-! ## Well-formed configurations (00_scope R6) -/

/-- A legal full-speed max-packet size (D8, D9). -/
def legalMps (n : Nat) : Bool := n == 8 || n == 16 || n == 32 || n == 64

/-- A string descriptor fits the scratch buffer and its length byte (D38). -/
def descFits (c : Config) (d : List Byte) : Bool := decide (d.length ≤ min (ctrlBufSize c) 255)

/-- The configuration is accepted (R6, 70 R374): R6's conditions, and the ranges of its value column (assumption log 28). -/
def configWf (c : Config) : Bool :=
  decide (c.pmaBase ≤ c.pmaSize) && decide (c.pmaBase + 2 * c.ep0Mps ≤ c.pmaSize)
    && c.botInEp.isIn && !c.botOutEp.isIn
    && c.botInEp.num != 0 && epExists c c.botInEp && c.botOutEp.num != 0 && epExists c c.botOutEp
    && descFits c (serialDesc c) && c.strings.all (fun e => descFits c (stringDesc e.2))
    && decide (c.configDesc.length ≤ 65535)
    && c.serialIndex != 0 && !(c.strings.map (·.1)).contains c.serialIndex
    && decide (1 ≤ c.nEp) && decide (c.nEp ≤ 16) && legalMps c.ep0Mps && legalMps c.botMps
    && c.dbuf.all (fun e => e.num != 0) && decide (1 ≤ c.maxConfiguration)
    && c.deviceDesc.length == 18 && c.inquiryData.length == 36
    && (match c.storageMedium with
        | none => true
        | some n => decide (n < 2 ^ 32))
    && memWf c.storageCells

end Sys2Proof.Machine
end

