-- ==== Sys2Proof/Machine/Flags.lean ====
section
/-!
DEFINITION. Every flag computation (10_state R38): the two ZLP flags, the two GET_STATUS words, the sense ring's pending test, and the
event flags a handler step finds pending (60_exceptions R333, R335).
-/

namespace Sys2Proof.Machine

/-- zlp_needed(n): a ZLP follows a control IN data stage of `n` bytes (41 R212). -/
def zlpNeeded (c : Config) (ctrlLen n : Nat) : Bool :=
  match c.zlpPolicy with
  | .alwaysOnMultiple => decide (n % c.ep0Mps = 0)
  | .shortOnly => decide (n % c.ep0Mps = 0 ∧ n < ctrlLen)

/-- A ZLP follows a SendData response of `n` bytes (42 R268, R289). -/
def botZlpNeeded (c : Config) (dataLength n : Nat) : Bool := decide (n % c.botMps = 0 ∧ n < dataLength)

/-- The device GET_STATUS word (30_encoding R107, 41 R220). -/
def deviceStatus (c : Config) (remoteWakeup : Bool) : BitVec 16 :=
  (if c.selfPowered then 1 else 0) + (if remoteWakeup then 2 else 0)

/-- The endpoint GET_STATUS word (30_encoding R107, 41 R233). -/
def endpointStatus (stalled : Bool) : BitVec 16 := if stalled then 1 else 0

/-- "head != tail ⇔ at least one sense entry pending" (10_state R33). -/
def sensePending (c : Scsi) : Bool := c.senseHead != c.senseTail

/-- An EV_CTR of this endpoint is pending (60 R333). -/
def ctrPending (s : State) (a : EpAddr) : Bool := epExists s.cfg a && (s.hw a).ctr

/-- Endpoint addresses in increasing number, OUT before IN (30_encoding R131). -/
def allEps : List EpAddr :=
  ((List.range 16).map (fun n => [(⟨false, BitVec.ofNat 4 n⟩ : EpAddr), ⟨true, BitVec.ofNat 4 n⟩])).flatten

/-- The events a handler step may service (60 R333, R335): a pending reset alone; else every pending completion, suspend
and resume. -/
def pendingEvents (s : State) : List Instr :=
  if s.periph.pendReset then [.evReset]
  else (allEps.filter (ctrPending s)).map Instr.evCtr
    ++ (if s.periph.pendSuspend then [.evSuspend] else []) ++ (if s.periph.pendResume then [.evResume] else [])

end Sys2Proof.Machine
end

