-- ==== Sys2Proof/Machine/Engine.lean ====
section
/-!
DEFINITION. The packet-memory allocator and the endpoint engine (40_endpoint_engine R150-R167), and the meanings of the OP rows.
-/

namespace Sys2Proof.Machine

/-! ## Common checks (R150, R338) -/

/-- check_open(ep): the number exists, then the record is open. -/
def checkOpen (ep : EpAddr) (s : State) : Option FaultReason :=
  if !epExists s.cfg ep then some .badOperand
  else if !(s.ep ep).isOpen then some .epNotOpen
  else none

/-- check_dir(ep, d). -/
def checkDir (ep : EpAddr) (isIn : Bool) : Option FaultReason := if ep.isIn = isIn then none else some .badOperand

/-- An operation after its checks: the first that fails raises its fault. -/
def withChecks (checks : List (Option FaultReason)) (f : State → State) (s : State) : State :=
  match checks with
  | [] => f s
  | some r :: _ => s.raise r
  | none :: rest => withChecks rest f s

/-- A transfer's length is within its buffer (20_memory R72, assumption log 14). -/
def checkFits (ok : Bool) : Option FaultReason := if ok then none else some .bufOverrun

/-! ## Allocator -/

/-- PMA_ALLOC(size): the region begins at the `pma_next` before it (R151). -/
def pmaAlloc (size : Nat) (s : State) : State :=
  if s.cfg.pmaSize < s.pmaNext + size then s.raise .pmaOverflow else s.setPmaNext (s.pmaNext + size)

/-! ## Opening and closing -/

/-- Status of an endpoint just opened: OUT receive-ready, isochronous IN disabled, other IN empty (R152, D18). -/
def openStat (ep : EpAddr) (type : EpType) : EpStat :=
  if !ep.isIn then .valid else if type = .isochronous then .disabled else .nak

/-- EP_OPEN's first region (R152). Its offset is kept as it is, above 65535 too (10_state R22 gives `pma_off` 16 bits, R6 gives
PMA_SIZE no bound and R152 no wrap: assumption log 24). -/
def allocFirst (ep : EpAddr) (mps : Nat) (s : State) : State :=
  (pmaAlloc mps s).andThen (fun t => t.modEp ep (fun e => { e with off0 := s.pmaNext }))

/-- EP_OPEN's second region, of a double-buffered endpoint (R152). -/
def allocSecond (ep : EpAddr) (mps : Nat) (s : State) : State :=
  if (s.ep ep).dbuf then
    (pmaAlloc mps s).andThen (fun t => t.modEp ep (fun e => { e with off1 := s.pmaNext }))
  else s

/-- EP_OPEN's record and status writes after its allocations (R152). -/
def openRecord (ep : EpAddr) (type : EpType) (mps : Nat) (cb : CallbackId) (s : State) : State :=
  (s.modEp ep (fun e =>
    { e with isOpen := true, type := type, mps := mps, callback := some cb, stalled := false, active := false,
             remaining := 0, transferred := 0, inflight := 0 })).modHw ep
    (fun _ => ⟨openStat ep type, false, 0, false, false, false⟩)

/-- EP_OPEN(ep, type, mps, cb) (R152). -/
def epOpen (ep : EpAddr) (type : EpType) (mps : Nat) (cb : CallbackId) (s : State) : State :=
  if !epExists s.cfg ep || decide (mps = 0) || decide (1023 < mps) then s.raise .badOperand
  else
    (((s.modEp ep (fun e => { e with dbuf := isDbuf s.cfg ep })).andThen (allocFirst ep mps)).andThen
      (allocSecond ep mps)).andThen (openRecord ep type mps cb)

/-- EP_CLOSE's writes, without the check (R153, 70 R371). -/
def closeRecord (e : EpRec) : EpRec := { e with isOpen := false, stalled := false, active := false }

/-- EP_CLOSE's status writes, and a bus reset's on the bus (R153, R170). -/
def closeHw (h : EpHw) : EpHw := { h with stat := .disabled, ctr := false, setup := false }

/-- EP_CLOSE(ep) (R153). -/
def epClose (ep : EpAddr) (s : State) : State :=
  withChecks [checkOpen ep s] (fun s => (s.modEp ep closeRecord).modHw ep closeHw) s

/-! ## Transfers -/

/-- region_index_load: the region an IN packet is loaded into, and the one the peripheral uses next (R162). -/
def loadRegion (e : EpRec) (h : EpHw) : Nat := if e.dbuf && h.bufSel then e.off1 else e.off0

/-- region_index_unload: the region just filled by an OUT packet (R162). -/
def unloadRegion (e : EpRec) (h : EpHw) : Nat := if e.dbuf && !h.bufSel then e.off1 else e.off0

/-- Make an endpoint VALID unless it is stalled (R154, R161, R164, D16). -/
def arm (ep : EpAddr) (s : State) : State :=
  if (s.ep ep).stalled then s else s.modHw ep (fun h => { h with stat := .valid })

/-- load_in_packet(ep) (R161). -/
def loadIn (ep : EpAddr) (s : State) : State :=
  let e := s.ep ep
  let n := min e.remaining e.mps
  (pmaWrite (loadRegion e (s.hw ep)) (bufRead s e.buf e.transferred n) s).andThen (fun s =>
    arm ep ((s.modHw ep (fun h => { h with count := n })).modEp ep (fun e => { e with inflight := n })))

/-- Post a transfer in the record; an unserviced completion is discarded (R154, R155, D83). -/
def postTransfer (ep : EpAddr) (buf : BufRef) (len : Nat) (s : State) : State :=
  (s.modEp ep (fun e => { e with buf := buf, remaining := len, transferred := 0, active := true })).modHw ep
    (fun h => { h with ctr := false })

/-- EP_READ(ep, buf, len) (R154). -/
def epRead (ep : EpAddr) (buf : BufRef) (len : Nat) (s : State) : State :=
  withChecks [checkOpen ep s, checkDir ep false, checkFits (writeFits s.cfg buf len)]
    (fun s => arm ep (postTransfer ep buf len s)) s

/-- EP_WRITE(ep, buf, len) (R155). -/
def epWrite (ep : EpAddr) (buf : BufRef) (len : Nat) (s : State) : State :=
  withChecks [checkOpen ep s, checkDir ep true, checkFits (readFits s.cfg buf len)]
    (fun s => loadIn ep (postTransfer ep buf len s)) s

/-- EP_WRITE_ZLP(ep) (R156). -/
def epWriteZlp (ep : EpAddr) (s : State) : State := epWrite ep .none 0 s

/-! ## Stall -/

/-- EP_STALL(ep): the transfer ends without its callback; a pending SETUP survives (R157, D17, D21). -/
def epStall (ep : EpAddr) (s : State) : State :=
  withChecks [checkOpen ep s] (fun s =>
    (s.modEp ep (fun e => { e with stalled := true, active := false })).modHw ep
      (fun h => { h with stat := .stall, ctr := h.ctr && h.setup })) s

/-- EP_DESTALL(ep) (R158, D84). -/
def epDestall (ep : EpAddr) (s : State) : State :=
  withChecks [checkOpen ep s] (fun s =>
    let e := s.ep ep
    (s.modEp ep (fun e => { e with stalled := false })).modHw ep
      (fun h => { h with dtog := false, stat := if e.stalled then (if e.active then .valid else .nak) else h.stat })) s

/-- EP_IS_OPEN(ep) (R159). -/
def epIsOpen (ep : EpAddr) (s : State) : Bool := epExists s.cfg ep && (s.ep ep).isOpen

/-- EP_IS_STALLED(ep) (R160). -/
def epIsStalled (ep : EpAddr) (s : State) : Bool := epExists s.cfg ep && (s.ep ep).stalled

/-- abandon(ep): end a transfer without its callback (R167). -/
def abandon (ep : EpAddr) (s : State) : State :=
  (s.modEp ep (fun e => { e with active := false })).modHw ep
    (fun h => { h with ctr := false, stat := if (s.ep ep).stalled then h.stat else .nak })

/-! ## Queries and allocation as operations that return a value -/

/-- PMA_ALLOC as the class layer calls it: the offset is returned (R151). -/
def allocReturning (size : Nat) (s : State) : State :=
  (pmaAlloc size s).andThen (fun t => t.returning (.offset s.pmaNext))

/-- EP_IS_OPEN as the class layer calls it (R159). -/
def queryOpen (ep : EpAddr) (s : State) : State := s.returning (.bool (epIsOpen ep s))

/-- EP_IS_STALLED as the class layer calls it (R160). -/
def queryStalled (ep : EpAddr) (s : State) : State := s.returning (.bool (epIsStalled ep s))

/-! ## Meanings of the OP rows -/

/-- EP_OPEN (R152). -/
def execEpOpen (ep : EpAddr) (type : EpType) (mps : BitVec 16) (cb : CallbackId) (s : State) : StepResult :=
  agentStep s (epOpen ep type mps.toNat cb)

/-- EP_CLOSE (R153). -/
def execEpClose (ep : EpAddr) (s : State) : StepResult := agentStep s (epClose ep)

/-- EP_READ (R154). -/
def execEpRead (ep : EpAddr) (buf : BufRef) (len : BitVec 32) (s : State) : StepResult :=
  agentStep s (epRead ep buf len.toNat)

/-- EP_WRITE (R155). -/
def execEpWrite (ep : EpAddr) (buf : BufRef) (len : BitVec 32) (s : State) : StepResult :=
  agentStep s (epWrite ep buf len.toNat)

/-- EP_WRITE_ZLP (R156). -/
def execEpWriteZlp (ep : EpAddr) (s : State) : StepResult := agentStep s (epWriteZlp ep)

/-- EP_STALL (R157). -/
def execEpStall (ep : EpAddr) (s : State) : StepResult := agentStep s (epStall ep)

/-- EP_DESTALL (R158). -/
def execEpDestall (ep : EpAddr) (s : State) : StepResult := agentStep s (epDestall ep)

/-- EP_IS_OPEN (R159). -/
def execEpIsOpen (ep : EpAddr) (s : State) : StepResult := agentStep s (queryOpen ep)

/-- EP_IS_STALLED (R160). -/
def execEpIsStalled (ep : EpAddr) (s : State) : StepResult := agentStep s (queryStalled ep)

/-- PMA_ALLOC (R151). -/
def execPmaAlloc (size : Nat) (s : State) : StepResult := agentStep s (allocReturning size)

end Sys2Proof.Machine
end

