-- ==== Sys2Proof/Machine/HostBus.lean ====
section
/-!
DEFINITION. The host's bus transactions (40_endpoint_engine R170-R177): the peripheral's part, with the outcome the host gets in
`lastOut`.
-/

namespace Sys2Proof.Machine

/-- The device is Suspended: the host makes no transaction (D20). -/
def isSuspended (s : State) : Bool := s.ctl.devState == .suspended

/-- An endpoint's answer when it moves no data (R176): none, STALL or NAK; `none` where it moves a packet. -/
def transactionRefusal (addr : BitVec 7) (ep : EpAddr) (s : State) : Option HostOutcome :=
  if addr ≠ s.periph.hwAddress ∨ epExists s.cfg ep = false ∨ (s.hw ep).stat = .disabled then some .none
  else if (s.hw ep).stat = .stall then some .stall
  else if (s.hw ep).stat = .nak ∨ (s.hw ep).ctr = true then some .nak
  else none

/-- The status after a packet has moved: toggle and region flip, NAK until serviced (R172, R173, 10_state R25). -/
def packetMoved (e : EpRec) (h : EpHw) (count : Nat) : EpHw :=
  { h with count := count, dtog := if e.type = .isochronous then h.dtog else !h.dtog,
           bufSel := if e.dbuf then !h.bufSel else h.bufSel, ctr := true, stat := .nak }

/-! ## HOST_BUS_RESET (R170) -/

/-- The peripheral's part of a bus reset (R170, D85). -/
def busResetSignal (s : State) : State :=
  ((s.modPeriph (fun p => { p with pendReset := true, pendSuspend := false, pendResume := false, hwAddress := 0 })).modHws
    closeHw).answer .none

/-- The guard of a bus reset (R170). -/
def needsStarted (s : State) : Option NoStep := if s.periph.started then none else some .notStarted

/-- HOST_BUS_RESET (R170). -/
def execHostBusReset (s : State) : StepResult := guardedStep s needsStarted busResetSignal

/-! ## HOST_SETUP (R171) -/

/-- A SETUP gets no answer (R171). -/
def setupUnanswered (addr : BitVec 7) (s : State) : Bool :=
  addr != s.periph.hwAddress || (s.hw ctlOut).stat == .disabled

/-- A SETUP arrives: both control directions are held until it is serviced (R171, D21). -/
def receiveSetup (bytes : List Byte) (s : State) : State :=
  (pmaWrite (s.ep ctlOut).off0 bytes s).andThen (fun s =>
    ((s.modHw ctlOut (fun h =>
        { h with count := bytes.length, setup := true, ctr := true, stat := .nak, dtog := true })).modHw ctlIn
      (fun h => { h with stat := .nak, dtog := true })).answer .ack)

/-- HOST_SETUP's effect (R171, R176). -/
def setupTransaction (addr : BitVec 7) (bytes : List Byte) (s : State) : State :=
  if !s.periph.started || setupUnanswered addr s then s.answer .none else receiveSetup bytes s

/-- HOST_SETUP's guard (R171, D20): a stopped peripheral only leaves the transaction unanswered (R176). -/
def setupGuard (addr : BitVec 7) (bytes : List Byte) (s : State) : Option NoStep :=
  if !s.periph.started then none
  else if isSuspended s then some .suspended
  else if !setupUnanswered addr s && decide (s.cfg.ep0Mps < bytes.length) then some .oversizedPacket
  else none

/-- HOST_SETUP (R171). -/
def execHostSetup (addr : BitVec 7) (bytes : List Byte) (s : State) : StepResult :=
  guardedStep s (setupGuard addr bytes) (setupTransaction addr bytes)

/-! ## HOST_OUT (R172) -/

/-- An OUT packet is stored (R172). -/
def receiveOut (ep : EpAddr) (bytes : List Byte) (s : State) : State :=
  (pmaWrite (loadRegion (s.ep ep) (s.hw ep)) bytes s).andThen (fun s =>
    (s.modHw ep (fun h => packetMoved (s.ep ep) h bytes.length)).answer .ack)

/-- HOST_OUT's effect (R172, R176). -/
def outTransaction (addr : BitVec 7) (ep : EpAddr) (bytes : List Byte) (s : State) : State :=
  if !s.periph.started then s.answer .none
  else
    match transactionRefusal addr ep s with
    | some o => s.answer o
    | none => receiveOut ep bytes s

/-- HOST_OUT's guard (R172, D20). -/
def outGuard (addr : BitVec 7) (ep : EpAddr) (bytes : List Byte) (s : State) : Option NoStep :=
  if ep.isIn then some .wrongDirection
  else if !s.periph.started then none
  else if isSuspended s then some .suspended
  else if transactionRefusal addr ep s = none ∧ (s.ep ep).mps < bytes.length then some .oversizedPacket
  else none

/-- HOST_OUT (R172). -/
def execHostOut (addr : BitVec 7) (ep : EpAddr) (bytes : List Byte) (s : State) : StepResult :=
  guardedStep s (outGuard addr ep bytes) (outTransaction addr ep bytes)

/-! ## HOST_IN (R173) -/

/-- The loaded IN packet is sent; the host's ACK is assumed (R173). -/
def sendIn (ep : EpAddr) (s : State) : State :=
  let e := s.ep ep
  let h := s.hw ep
  if loadRegion e h + h.count ≤ s.cfg.pmaSize then
    (s.modHw ep (fun h => packetMoved e h h.count)).answer (.data h.dtog (pmaRead s (loadRegion e h) h.count))
  else s.raise .pmaRange

/-- HOST_IN's effect (R173, R176). -/
def inTransaction (addr : BitVec 7) (ep : EpAddr) (s : State) : State :=
  if !s.periph.started then s.answer .none
  else
    match transactionRefusal addr ep s with
    | some o => s.answer o
    | none => sendIn ep s

/-- HOST_IN's guard (R173, D20). -/
def inGuard (ep : EpAddr) (s : State) : Option NoStep :=
  if !ep.isIn then some .wrongDirection
  else if !s.periph.started then none
  else if isSuspended s then some .suspended
  else none

/-- HOST_IN (R173). -/
def execHostIn (addr : BitVec 7) (ep : EpAddr) (s : State) : StepResult :=
  guardedStep s (inGuard ep) (inTransaction addr ep)

/-! ## HOST_SUSPEND and HOST_RESUME (R174, R175) -/

/-- HOST_SUSPEND's effect (R174). Where one is pending, R174's guard "not pend_suspend" bars it: nothing at all changes, the outcome
included (00_scope R11: no state-changing step), which is how 60 R334 has a second one absorbed (assumption log 35). -/
def suspendSignal (s : State) : State :=
  if s.periph.pendSuspend then s else (s.modPeriph (fun p => { p with pendSuspend := true })).answer .none

/-- The rest of HOST_SUSPEND's guard (R174). -/
def suspendGuard (s : State) : Option NoStep :=
  if !s.periph.started then some .notStarted else if isSuspended s then some .suspended else none

/-- HOST_SUSPEND (R174, 60 R334). -/
def execHostSuspend (s : State) : StepResult := guardedStep s suspendGuard suspendSignal

/-- HOST_RESUME's guard (R175). -/
def resumeGuard (s : State) : Option NoStep :=
  if !s.periph.started then some .notStarted
  else if isSuspended s || s.periph.pendSuspend then none
  else some .notSuspended

/-- HOST_RESUME (R175): a suspend never serviced vanishes with it. -/
def execHostResume (s : State) : StepResult :=
  guardedStep s resumeGuard (fun s =>
    (s.modPeriph (fun p =>
      if p.pendSuspend then { p with pendSuspend := false } else { p with pendResume := true })).answer .none)

end Sys2Proof.Machine
end

