-- ==== Sys2Proof/Machine/Scsi.lean ====
section
/-!
DEFINITION. The sense ring, the storage collaborator and the SCSI commands (42_bot_scsi R262-R264, R272-R287), and the meanings of the CDB
rows. A command leaves the ScsiState it returns in `scsi.state`, "last result of process_command/resume_command" (10_state R32).
-/

namespace Sys2Proof.Machine

/-! ## Sense ring (R262, R263) -/

/-- A sense key and additional sense code. -/
abbrev Sense := Byte × Byte

/-- S_NO_MEDIUM (R262). -/
def sNoMedium : Sense := (0x02, 0x3A)

/-- S_OUT_OF_RANGE (R262). -/
def sOutOfRange : Sense := (0x05, 0x21)

/-- S_INVALID_FIELD (R262). -/
def sInvalidField : Sense := (0x05, 0x24)

/-- S_INVALID_OPCODE (R262). -/
def sInvalidOpcode : Sense := (0x05, 0x20)

/-- S_WRITE_PROTECT (R262). -/
def sWriteProtect : Sense := (0x07, 0x27)

/-- S_READ_FAIL (R262). -/
def sReadFail : Sense := (0x04, 0x11)

/-- S_WRITE_FAIL (R262). -/
def sWriteFail : Sense := (0x04, 0x03)

/-- The ring after a push (R263). -/
def sensePushed (e : Sense) (c : Scsi) : Scsi :=
  { c with senseKey := c.senseKey.set c.senseHead.val e.1 c.senseHead.isLt,
           senseAsc := c.senseAsc.set c.senseHead.val e.2 c.senseHead.isLt,
           senseHead := c.senseHead + 1 }

/-- push(key, asc) (R263). -/
def sensePush (e : Sense) (s : State) : State :=
  let t := s.modScsi (sensePushed e)
  if s.cfg.senseOverflow = .fault ∧ sensePending t.scsi = false then t.raise .senseOverflow else t

/-- The entry pop() returns (R263). -/
def senseOldest (c : Scsi) : Option Sense :=
  if sensePending c then some (c.senseKey[c.senseTail.val]'c.senseTail.isLt, c.senseAsc[c.senseTail.val]'c.senseTail.isLt)
  else none

/-- The ring after pop() (R263). -/
def sensePopped (c : Scsi) : Scsi := if sensePending c then { c with senseTail := c.senseTail + 1 } else c

/-! ## Results -/

/-- `return r` of a command (10_state R32). -/
def finish (r : ScsiState) (s : State) : State := s.modScsi (fun c => { c with state := r })

/-- `push(e); return Error`. -/
def failWith (e : Sense) (s : State) : State := (sensePush e s).andThen (finish .error)

/-- A buffered response in `work[0 .. resp_len)`; `return SendData` (R272). -/
def respond (bytes : List Byte) (s : State) : State :=
  finish .sendData ((bufWrite .work 0 bytes s).modScsi (fun c => { c with respLen := bytes.length }))

/-! ## Storage and the block pipeline (R264, R286, R287) -/

/-- One block further. -/
def nextBlock (s : State) : State := s.modScsi (fun c => { c with blkAddr := c.blkAddr + 1, blkLen := c.blkLen - 1 })

/-- read_next() (R286) over storage.read (R264). -/
def readNext (s : State) : State :=
  if s.scsi.totalBlocks ≤ s.scsi.blkAddr then s.raise .blockRange
  else
    let t := useAnswer s
    if nextAnswer s then
      finish (if s.scsi.blkLen - 1 = 0 then .lastDataIn else .dataIn)
        (nextBlock (bufWrite .work 0 (storageBlock t s.scsi.blkAddr) t))
    else failWith sReadFail (useDraw (bufWrite .work 0 (junkBlock t) t))

/-- write_next() (R287) over storage.write (R264). -/
def writeNext (s : State) : State :=
  if s.scsi.totalBlocks ≤ s.scsi.blkAddr then s.raise .blockRange
  else
    let t := useAnswer s
    if nextAnswer s then
      finish (if s.scsi.blkLen - 1 = 0 then .ok else .dataOut)
        (nextBlock (setStorageBlock s.scsi.blkAddr (bufRead t .work 0 512) t))
    else failWith sWriteFail (useDraw (setStorageBlock s.scsi.blkAddr (junkBlock t) t))

/-- resume_command() (R272). -/
def resumeCommand (s : State) : State :=
  match s.scsi.state with
  | .dataIn => readNext s
  | .dataOut => writeNext s
  | .ok | .error | .sendData | .lastDataIn => finish .ok s

/-! ## Commands -/

/-- `lba + count > total_blocks`, on unbounded integers (D56). -/
def outOfRange (lba : BitVec 32) (count : BitVec 16) (s : State) : Bool :=
  decide (s.scsi.totalBlocks < lba.toNat + count.toNat)

/-- The CBW declares data from device to host (30_encoding R110). -/
def isDataIn (s : State) : Bool := s.bot.flags.getLsbD 7

/-- A validated block command begins (R282, R283). -/
def setBlocks (lba : BitVec 32) (count : BitVec 16) (s : State) : State :=
  s.modScsi (fun c => { c with blkAddr := lba.toNat, blkLen := count.toNat })

/-- TEST_UNIT_READY (R273). -/
def testUnitReady (s : State) : State := if !s.scsi.medium then failWith sNoMedium s else finish .ok s

/-- REQUEST_SENSE (R274). -/
def requestSense (s : State) : State := respond (senseResponse (senseOldest s.scsi)) (s.modScsi sensePopped)

/-- READ_FORMAT_CAPACITIES (R275). -/
def readFormatCapacities (s : State) : State :=
  if !s.scsi.medium then failWith sNoMedium s else respond (formatCapacityResponse s.scsi.totalBlocks) s

/-- READ_CAPACITY10 (R276). -/
def readCapacity10 (s : State) : State :=
  if !s.scsi.medium then failWith sNoMedium s else respond (capacityResponse s.scsi.totalBlocks) s

/-- INQUIRY (R277). -/
def inquiry (s : State) : State := respond s.cfg.inquiryData s

/-- MODE_SENSE6 (R278). -/
def modeSense6 (s : State) : State := respond [0, 0, 0, 0] s

/-- MODE_SENSE10 (R279). -/
def modeSense10 (s : State) : State := respond [0, 0x06, 0, 0, 0, 0, 0, 0] s

/-- START_STOP_UNIT (R280). -/
def startStopUnit (s : State) : State := finish .ok s

/-- PREVENT_ALLOW_MEDIUM_REMOVAL (R281). -/
def preventAllowMediumRemoval (s : State) : State := finish .ok s

/-- READ10 (R282). -/
def read10 (lba : BitVec 32) (count : BitVec 16) (s : State) : State :=
  if !isDataIn s then failWith sInvalidField s
  else if !s.scsi.medium then failWith sNoMedium s
  else if outOfRange lba count s then failWith sOutOfRange s
  else if s.bot.dataLength ≠ count.toNat * 512 then failWith sInvalidField s
  else if count = 0 then finish .ok s
  else readNext (setBlocks lba count s)

/-- WRITE10 (R283). -/
def write10 (lba : BitVec 32) (count : BitVec 16) (s : State) : State :=
  if isDataIn s then failWith sInvalidField s
  else if !s.scsi.medium then failWith sNoMedium s
  else if outOfRange lba count s then failWith sOutOfRange s
  else if s.bot.dataLength ≠ count.toNat * 512 then failWith sInvalidField s
  else if !s.scsi.writeCapable then failWith sWriteProtect s
  else if count = 0 then finish .ok s
  else finish .dataOut (setBlocks lba count s)

/-- VERIFY10 (R284). -/
def verify10 (lba : BitVec 32) (count : BitVec 16) (s : State) : State :=
  if !s.scsi.medium then failWith sNoMedium s
  else if outOfRange lba count s then failWith sOutOfRange s
  else finish .ok s

/-- Any other operation code (R285). -/
def unsupportedCommand (s : State) : State := failWith sInvalidOpcode s

/-- process_command on a decoded CDB (R272). The last arm's instructions are no CDB rows; no CDB decodes to one. -/
def processCommand (i : Instr) (s : State) : State :=
  match i with
  | .testUnitReady => testUnitReady s
  | .requestSense => requestSense s
  | .inquiry => inquiry s
  | .modeSense6 => modeSense6 s
  | .startStopUnit => startStopUnit s
  | .preventAllowMediumRemoval => preventAllowMediumRemoval s
  | .readFormatCapacities => readFormatCapacities s
  | .readCapacity10 => readCapacity10 s
  | .read10 lba count => read10 lba count s
  | .write10 lba count => write10 lba count s
  | .verify10 lba count => verify10 lba count s
  | .modeSense10 => modeSense10 s
  | .cdbUnsupported _ => unsupportedCommand s
  | _ => unsupportedCommand s

/-! ## Meanings of the CDB rows. Scheduled alone they run whatever `bot_state` and CLASS are, a step the spec does not give (assumption
log 3). -/

/-- TEST_UNIT_READY (R273). -/
def execTestUnitReady (s : State) : StepResult := agentStep s testUnitReady

/-- REQUEST_SENSE (R274). -/
def execRequestSense (s : State) : StepResult := agentStep s requestSense

/-- INQUIRY (R277). -/
def execInquiry (s : State) : StepResult := agentStep s inquiry

/-- MODE_SENSE6 (R278). -/
def execModeSense6 (s : State) : StepResult := agentStep s modeSense6

/-- START_STOP_UNIT (R280). -/
def execStartStopUnit (s : State) : StepResult := agentStep s startStopUnit

/-- PREVENT_ALLOW_MEDIUM_REMOVAL (R281). -/
def execPreventAllowMediumRemoval (s : State) : StepResult := agentStep s preventAllowMediumRemoval

/-- READ_FORMAT_CAPACITIES (R275). -/
def execReadFormatCapacities (s : State) : StepResult := agentStep s readFormatCapacities

/-- READ_CAPACITY10 (R276). -/
def execReadCapacity10 (s : State) : StepResult := agentStep s readCapacity10

/-- READ10 (R282). -/
def execRead10 (lba : BitVec 32) (count : BitVec 16) (s : State) : StepResult := agentStep s (read10 lba count)

/-- WRITE10 (R283). -/
def execWrite10 (lba : BitVec 32) (count : BitVec 16) (s : State) : StepResult := agentStep s (write10 lba count)

/-- VERIFY10 (R284). -/
def execVerify10 (lba : BitVec 32) (count : BitVec 16) (s : State) : StepResult := agentStep s (verify10 lba count)

/-- MODE_SENSE10 (R279). -/
def execModeSense10 (s : State) : StepResult := agentStep s modeSense10

/-- An unsupported operation code (R285); the code itself is not kept. -/
def execCdbUnsupported (_opcode : Byte) (s : State) : StepResult := agentStep s unsupportedCommand

end Sys2Proof.Machine
end

