-- ==== Sys2Proof/Machine/BotSeq.lean ====
section
/-!
DEFINITION. The mass-storage class's life and the Bulk-Only Transport sequencer (42_bot_scsi R261, R266-R271, R288, R289), and the meanings
of the CBW rows.
-/

namespace Sys2Proof.Machine

/-- Move the sequencer (10_state R35). -/
def setBotState (b : BotState) (s : State) : State := s.modBot (fun t => { t with state := b })

/-! ## Class life (R261) -/

/-- post_cbw_read() (R261). -/
def postCbwRead (s : State) : State := epRead s.cfg.botOutEp .cbw (cbwReadLen s.cfg) (setBotState .idle s)

/-- The SCSI context as class init leaves it: storage.open() is the parameter STORAGE_MEDIUM (R261, R264). -/
def mscContext (s : State) : State :=
  (s.modScsi (fun c =>
    { c with medium := s.cfg.storageMedium.isSome, totalBlocks := s.cfg.storageMedium.getD 0,
             writeCapable := s.cfg.storageWrite, senseHead := 0, senseTail := 0, state := .ok })).modBot
    (fun b => { b with zlp := false })

/-- init(v) (R261); `v` is not used. -/
def mscInit (s : State) : State :=
  ((epOpen s.cfg.botInEp .bulk s.cfg.botMps .botIn s).andThen
    (epOpen s.cfg.botOutEp .bulk s.cfg.botMps .botOut)).andThen (fun s => postCbwRead (mscContext s))

/-- deinit() (R261). -/
def mscDeinit (s : State) : State :=
  ((epClose s.cfg.botInEp s).andThen (epClose s.cfg.botOutEp)).andThen (fun s =>
    s.modBot (fun b => { b with state := .idle, zlp := false }))

/-! ## Status and data stages (R268, R269) -/

/-- send_csw(status) (R269). -/
def sendCsw (status : Byte) (s : State) : State :=
  epWrite s.cfg.botInEp .csw 13
    (setBotState .status (bufWrite .csw 0 (cswBytes s.bot.tag s.bot.residue status) s))

/-- The data stage of a SendData response of `n` bytes (R268). -/
def sendResponse (n : Nat) (s : State) : State :=
  if n = 0 then sendCsw 0x00 s
  else
    epWrite s.cfg.botInEp .work n
      (s.modBot (fun b => { b with zlp := botZlpNeeded s.cfg b.dataLength n, state := .dataSend }))

/-- handle_result(r), with r in `scsi.state` (R268). -/
def handleResult (s : State) : State :=
  match s.scsi.state with
  | .ok => sendCsw 0x00 s
  | .error => sendCsw 0x01 s
  | .sendData => sendResponse (min s.scsi.respLen s.bot.dataLength) s
  | .dataIn => epWrite s.cfg.botInEp .work 512 (setBotState .dataIn s)
  | .lastDataIn => epWrite s.cfg.botInEp .work 512 (setBotState .dataInLast s)
  | .dataOut => epRead s.cfg.botOutEp .work 512 (setBotState .dataOut s)

/-! ## CBW (R266, R267) -/

/-- The command fields of a valid CBW (R267). -/
def acceptFields (tag dataLength : BitVec 32) (flags : Byte) (s : State) : State :=
  s.modBot (fun b =>
    { b with tag := tag, dataLength := dataLength.toNat, flags := flags, residue := dataLength.toNat, zlp := false })

/-- cbw_accept() (R267): the command, then its result. -/
def cbwAccept (tag dataLength : BitVec 32) (flags : Byte) (cdb : Vector Byte 16) (s : State) : State :=
  (processCommand (decodeCdb cdb) (acceptFields tag dataLength flags s)).andThen handleResult

/-- A malformed CBW (R266, D45). -/
def cbwReject (s : State) : State :=
  ((epStall s.cfg.botInEp s).andThen (epStall s.cfg.botOutEp)).andThen (setBotState .stalled)

/-- A transfer received in BOT_IDLE, `n` bytes in `cbw_buf` (R266). -/
def cbwReceived (n : Nat) (s : State) : State :=
  match decodeCbw (bufRead s .cbw 0 n) with
  | .cbw tag dataLength flags _ cdb => cbwAccept tag dataLength flags cdb s
  | _ => cbwReject s

/-! ## Completion callbacks (R270, R271) -/

/-- `residue <- residue - n`. -/
def takeResidue (n : Nat) (s : State) : State := s.modBot (fun b => { b with residue := b.residue - n })

/-- BOT_IN (R270). -/
def botInDone (n : Nat) (s : State) : State :=
  match s.bot.state with
  | .dataSend =>
    let s := takeResidue n s
    if s.bot.zlp then epWriteZlp s.cfg.botInEp (s.modBot (fun b => { b with zlp := false, state := .dataZlp }))
    else sendCsw 0x00 s
  | .dataZlp => sendCsw 0x00 s
  | .dataIn => (resumeCommand (takeResidue n s)).andThen handleResult
  | .dataInLast => sendCsw 0x00 (takeResidue n s)
  | .status => postCbwRead s
  | .idle | .dataOut | .stalled => s

/-- BOT_OUT (R271). -/
def botOutDone (n : Nat) (s : State) : State :=
  match s.bot.state with
  | .idle => cbwReceived n s
  | .dataOut => (resumeCommand (takeResidue n s)).andThen handleResult
  | .dataSend | .dataZlp | .dataIn | .dataInLast | .status | .stalled => s

/-! ## Meanings of the CBW rows -/

/-- CBW (R266, R267); bCBWCBLength is only range-checked (D46). Scheduled alone it runs whatever `bot_state` and CLASS are, a step the
spec does not give (assumption log 3). -/
def execCbw (tag dataLength : BitVec 32) (flags _cbLength : Byte) (cdb : Vector Byte 16) (s : State) : StepResult :=
  agentStep s (cbwAccept tag dataLength flags cdb)

/-- CBW_MALFORMED (R266). Scheduled alone it runs whatever `bot_state` and CLASS are (assumption log 3). -/
def execCbwMalformed (_bytes : List Byte) (s : State) : StepResult := agentStep s cbwReject

end Sys2Proof.Machine
end

