-- ==== Sys2Proof/Machine/Control.lean ====
section
/-!
DEFINITION. The control pipe's primitives (41_control_transfer R204-R213) and the meanings of the CTL rows.
-/

namespace Sys2Proof.Machine

/-- ctl_status(): the zero-length status IN (R208). -/
def ctlStatus (s : State) : State := epWriteZlp ctlIn (s.modCtl (fun c => { c with ctrlState := .statusIn }))

/-- reject: both control directions stall (R211). -/
def reject (s : State) : State :=
  ((epStall ctlIn s).andThen (epStall ctlOut)).andThen (fun s =>
    s.modCtl (fun c => { c with zlpPending := false, ctrlState := .stall }))

/-- CTL_SEND's data stage of `n` > 0 bytes; the status OUT is accepted from now on (R206, D26). -/
def startDataIn (buf : BufRef) (n : Nat) (s : State) : State :=
  (epWrite ctlIn buf n (s.modCtl (fun c =>
    { c with zlpPending := zlpNeeded s.cfg c.ctrlLen n, ctrlState := .dataIn }))).andThen (epRead ctlOut .none 0)

/-- CTL_SEND(buf, len) (R206). -/
def ctlSend (buf : BufRef) (len : Nat) (s : State) : State :=
  if s.ctl.ctrlState ≠ .setup then s.raise .badOperand
  else if min len s.ctl.ctrlLen = 0 then ctlStatus s
  else startDataIn buf (min len s.ctl.ctrlLen) s

/-- CTL_RECEIVE(buf, len) (R207). -/
def ctlReceive (buf : BufRef) (len : Nat) (s : State) : State :=
  if s.ctl.ctrlState ≠ .setup then s.raise .badOperand
  else if min len s.ctl.ctrlLen = 0 then ctlStatus s
  else epRead ctlOut buf (min len s.ctl.ctrlLen) (s.modCtl (fun c => { c with ctrlState := .dataOut }))

/-- setup_clear() (R204). -/
def setupClear (s : State) : State :=
  (abandon ctlIn ((abandon ctlOut (s.modEp ctlOut (fun e => { e with stalled := false }))).modEp ctlIn
    (fun e => { e with stalled := false }))).modCtl (fun c => { c with zlpPending := false })

/-- apply_pending_address() (R213). -/
def applyPendingAddress (s : State) : State :=
  match s.ctl.pendingAddr with
  | some a => (setHwAddress a s).modCtl (fun c => { c with address := a, pendingAddr := none })
  | none => s

/-- The control IN completion callback after the address (R209). -/
def ctrlInAdvance (s : State) : State :=
  match s.ctl.ctrlState with
  | .dataIn =>
    if s.ctl.zlpPending then epWriteZlp ctlIn (s.modCtl (fun c => { c with zlpPending := false }))
    else s.modCtl (fun c => { c with ctrlState := .statusOut })
  | .statusIn => s.modCtl (fun c => { c with ctrlState := .idle })
  | .idle | .setup | .dataOut | .statusOut | .stall => s

/-- CTRL_IN (R209). -/
def ctrlInDone (s : State) : State := ctrlInAdvance (applyPendingAddress s)

/-- CTL_SEND (R206). -/
def execCtlSend (buf : BufRef) (len : BitVec 16) (s : State) : StepResult := agentStep s (ctlSend buf len.toNat)

/-- CTL_RECEIVE (R207). -/
def execCtlReceive (buf : BufRef) (len : BitVec 16) (s : State) : StepResult := agentStep s (ctlReceive buf len.toNat)

end Sys2Proof.Machine
end

