-- ==== Sys2Proof/Machine/ClassLayer.lean ====
section
/-!
DEFINITION. An OPAQUE class (10_state R31; 41 R238, R239; 40 R165; D71): its functions are parameters that may call the operations of 40
and CTL_SEND/CTL_RECEIVE and may write the class layer's own memory, within the calling step (assumption log 13).
-/

namespace Sys2Proof.Machine

/-- One operation a class function calls: every OP and CTL operation is open to it, on every endpoint (60 R339). Nothing else is a
call (assumption log 13). -/
def classCallOp (op : Instr) (s : State) : State :=
  match op with
  | .epOpen ep ty mps cb => epOpen ep ty mps.toNat cb s
  | .epClose ep => epClose ep s
  | .epRead ep buf len => epRead ep buf len.toNat s
  | .epWrite ep buf len => epWrite ep buf len.toNat s
  | .epWriteZlp ep => epWriteZlp ep s
  | .epStall ep => epStall ep s
  | .epDestall ep => epDestall ep s
  | .epIsOpen ep => queryOpen ep s
  | .epIsStalled ep => queryStalled ep s
  | .pmaAlloc size => allocReturning size s
  | .ctlSend buf len => ctlSend buf len.toNat s
  | .ctlReceive buf len => ctlReceive buf len.toNat s
  | _ => s

/-- One thing a class function does. -/
def classAct (a : ClassAct) (s : State) : State :=
  match a with
  | .call op => classCallOp op s
  | .store addr b => s.modApp (fun m => memWrite m addr.toNat [b])

/-- The things a class function does, in order, up to a fault. -/
def classActs (acts : List ClassAct) (s : State) : State :=
  match acts with
  | [] => s
  | a :: rest => (classAct a s).andThen (classActs rest)

/-- A function of an OPAQUE class runs (R238). -/
def runClass (c : ClassCall) (s : State) : State :=
  classActs (nextClassRun s).acts { useClassRun s with calls := c :: s.calls }

/-- The data stage of a class request has arrived: the hook, where the class has one (41 R239). -/
def controlDataReady (s : State) : State :=
  match s.cfg.cls with
  | .other true => runClass .dataReady s
  | .other false | .msc => s

/-- CTRL_OUT (41 R210). -/
def ctrlOutDone (s : State) : State :=
  match s.ctl.ctrlState with
  | .dataIn | .statusOut =>
    (abandon ctlIn s).modCtl (fun c => { c with zlpPending := false, ctrlState := .idle })
  | .dataOut => (controlDataReady s).andThen ctlStatus
  | .idle | .setup | .statusIn | .stall => s

end Sys2Proof.Machine
end

