-- ==== Sys2Proof/Machine/Requests.lean ====
section
/-!
DEFINITION. The control requests (41_control_transfer R202, R205, R220-R237; 42_bot_scsi R265): what serving each of them does, and the
meanings of the SETUP and CLASSREQ rows. Serving a request begins by recording its eight bytes, its wLength and the sub-state
Setup (R202, assumption log 18); the rest is the request's own rule.
-/

namespace Sys2Proof.Machine

/-! ## Recording a request (R202) -/

/-- `req <- ...; ctrl_len <- wLength; ctrl_state <- Setup` (R202). A word scheduled alone runs without R204's setup_clear: it leaves
`ctrl_state` Stall here, with both control endpoints still stalled (assumption log 18). -/
def beginRequest (b : Vector Byte 8) (s : State) : State :=
  s.modCtl (fun c => { c with req := b, ctrlLen := (le16 b[6] b[7]).toNat, ctrlState := .setup })

/-- Bytes of a standard request to the device. -/
def deviceReq (dir : Bool) (r : Byte) (v i l : BitVec 16) : Vector Byte 8 := setupBytes dir 0 0 r v i l

/-- Bytes of a standard request to an endpoint. -/
def endpointReq (dir : Bool) (r : Byte) (v i l : BitVec 16) : Vector Byte 8 := setupBytes dir 0 2 r v i l

/-- Bytes of a GET_DESCRIPTOR. -/
def descriptorReq (dir : Bool) (type index : Byte) (i l : BitVec 16) : Vector Byte 8 :=
  setupBytes dir 0 0 6 (type ++ index) i l

/-! ## Device requests (R220-R231) -/

/-- A response of the block's own in `scratch` (R220, R227, R229, R233). -/
def sendScratch (bytes : List Byte) (s : State) : State :=
  ctlSend .scratch bytes.length (bufWrite .scratch 0 bytes s)

/-- GET_STATUS to the device (R220). -/
def deviceGetStatus (wLength : BitVec 16) (s : State) : State :=
  if wLength ≠ 2 then reject s else sendScratch (le16Bytes (deviceStatus s.cfg s.ctl.remoteWakeup)) s

/-- CLEAR_FEATURE (`on` = false) and SET_FEATURE to the device (R221, R222): only selector 1 has an effect. -/
def deviceFeature (on : Bool) (wValue : BitVec 16) (s : State) : State :=
  ctlStatus (if wValue = 1 then s.modCtl (fun c => { c with remoteWakeup := on }) else s)

/-- SET_ADDRESS (R223). Rejected on its four conditions alone; 10_state R28's sentence on `class_active` fails after one served while
Suspended from Configured (assumption log 29). -/
def deviceSetAddress (wValue wIndex wLength : BitVec 16) (s : State) : State :=
  if wIndex ≠ 0 ∨ wLength ≠ 0 ∨ 128 ≤ wValue.toNat ∨ s.ctl.devState = .configured then reject s
  else
    ctlStatus (s.modCtl (fun c =>
      { c with pendingAddr := some (wValue.extractLsb' 0 7),
               devState := if wValue = 0 then .default else .addressed }))

/-- GET_DESCRIPTOR(String) (R227). -/
def deviceGetString (index : Byte) (s : State) : State :=
  match stringResponse s.cfg index with
  | some d => sendScratch d s
  | none => reject s

/-- GET_CONFIGURATION (R229). -/
def deviceGetConfiguration (s : State) : State := sendScratch [octet s.ctl.config 0] s

/-- class.deinit() (R238; 42 R261). -/
def classDeinit (s : State) : State :=
  match s.cfg.cls with
  | .msc => mscDeinit s
  | .other _ => runClass .deinit s

/-- class.init(v) (R238; 42 R261). -/
def classInit (v : BitVec 16) (s : State) : State :=
  match s.cfg.cls with
  | .msc => mscInit s
  | .other _ => runClass (.init v) s

/-- `if class_active: class.deinit(); class_active <- false` (R230, 70 R371). -/
def leaveClass (s : State) : State :=
  if s.ctl.classActive then (classDeinit s).andThen (fun s => s.modCtl (fun c => { c with classActive := false })) else s

/-- A non-zero configuration: init the class, Configured (R230). -/
def enterClass (v : BitVec 16) (s : State) : State :=
  (classInit v s).andThen (fun s => s.modCtl (fun c => { c with classActive := true, devState := .configured }))

/-- SET_CONFIGURATION (R230). Rejected on its two conditions alone: one served while Suspended, from Default too, leaves Suspended
(assumption log 36). -/
def deviceSetConfiguration (v : BitVec 16) (s : State) : State :=
  if s.ctl.devState = .default ∨ s.cfg.maxConfiguration < v.toNat then reject s
  else
    (((leaveClass s).andThen (fun s => s.modCtl (fun c => { c with config := v }))).andThen (fun s =>
      if v = 0 then s.modCtl (fun c => { c with devState := .addressed }) else enterClass v s)).andThen ctlStatus

/-! ## Endpoint requests (R232-R236) -/

/-- An endpoint request after the legality check (R205, R232). -/
def forLegalEp (wIndex : BitVec 16) (f : EpAddr → State → State) (s : State) : State :=
  if endpointLegal s (requestEp wIndex) then f (requestEp wIndex) s else reject s

/-- GET_STATUS to an endpoint (R233). -/
def endpointGetStatus (wLength : BitVec 16) (e : EpAddr) (s : State) : State :=
  if wLength ≠ 2 then reject s else sendScratch (le16Bytes (endpointStatus (s.ep e).stalled)) s

/-- CLEAR_FEATURE(ENDPOINT_HALT) (R234). -/
def endpointClearHalt (wValue : BitVec 16) (e : EpAddr) (s : State) : State :=
  if wValue ≠ 0 then reject s
  else (if e.num = 0 then s else epDestall e s).andThen ctlStatus

/-- SET_FEATURE(ENDPOINT_HALT) (R235). -/
def endpointSetHalt (wValue : BitVec 16) (e : EpAddr) (s : State) : State :=
  if wValue ≠ 0 then reject s
  else (if e.num = 0 then s else epStall e s).andThen ctlStatus

/-! ## Class requests (R237; 42 R265) -/

/-- The end of a forwarded request: rejected if not handled; the status where no data is owed and none was started (R237). -/
def finishForward (handled : Bool) (s : State) : State :=
  if !handled then reject s
  else if s.ctl.ctrlState = .setup ∧ s.ctl.ctrlLen = 0 then ctlStatus s
  else s

/-- Bulk-Only Mass Storage Reset in the class (42 R265). -/
def massStorageReset (s : State) : State :=
  postCbwRead ((abandon s.cfg.botOutEp (abandon s.cfg.botInEp s)).modBot (fun b => { b with zlp := false }))

/-- The mass-storage class's setup function on a decoded class request, and whether it handled it (42 R265). -/
def mscSetup (i : Instr) (s : State) : State × Bool :=
  match i with
  | .getMaxLun _ _ _ => (ctlSend .maxLun 1 s, true)
  | .bulkOnlyMassStorageReset _ _ => (massStorageReset s, true)
  | _ => (s, false)

/-- class.setup(req): the mass-storage class on its decoded request, or the OPAQUE class on the bytes (R238). -/
def classSetup (b : Vector Byte 8) (i : Instr) (s : State) : State × Bool :=
  match s.cfg.cls with
  | .msc => mscSetup i s
  | .other _ => (runClass (.setup b) s, (nextClassRun s).handled)

/-- A request to an interface (R237): forwarded to the class, as the class request `i`. -/
def forward (b : Vector Byte 8) (i : Instr) (s : State) : State :=
  if !s.ctl.classActive || decide (s.cfg.interfaceCount ≤ requestInterface (le16 b[4] b[5])) then reject s
  else (classSetup b i s).1.andThen (finishForward (classSetup b i s).2)

/-! ## Serving each request -/

/-- GET_STATUS to the device (R220). -/
def serveGetStatusDevice (dir : Bool) (v i l : BitVec 16) (s : State) : State :=
  deviceGetStatus l (beginRequest (deviceReq dir 0 v i l) s)

/-- CLEAR_FEATURE to the device (R221). -/
def serveClearFeatureDevice (dir : Bool) (v i l : BitVec 16) (s : State) : State :=
  deviceFeature false v (beginRequest (deviceReq dir 1 v i l) s)

/-- SET_FEATURE to the device (R222). -/
def serveSetFeatureDevice (dir : Bool) (v i l : BitVec 16) (s : State) : State :=
  deviceFeature true v (beginRequest (deviceReq dir 3 v i l) s)

/-- SET_ADDRESS (R223). -/
def serveSetAddress (dir : Bool) (v i l : BitVec 16) (s : State) : State :=
  deviceSetAddress v i l (beginRequest (deviceReq dir 5 v i l) s)

/-- GET_DESCRIPTOR(Device) (R225). -/
def serveGetDescriptorDevice (dir : Bool) (x : Byte) (i l : BitVec 16) (s : State) : State :=
  ctlSend .deviceDesc 18 (beginRequest (descriptorReq dir 1 x i l) s)

/-- GET_DESCRIPTOR(Configuration) (R226). -/
def serveGetDescriptorConfiguration (dir : Bool) (x : Byte) (i l : BitVec 16) (s : State) : State :=
  let s := beginRequest (descriptorReq dir 2 x i l) s
  ctlSend .configDesc s.cfg.configDesc.length s

/-- GET_DESCRIPTOR(String) (R227). -/
def serveGetDescriptorString (dir : Bool) (x : Byte) (i l : BitVec 16) (s : State) : State :=
  deviceGetString x (beginRequest (descriptorReq dir 3 x i l) s)

/-- GET_DESCRIPTOR(Device qualifier) (R228). -/
def serveGetDescriptorDeviceQualifier (dir : Bool) (x : Byte) (i l : BitVec 16) (s : State) : State :=
  reject (beginRequest (descriptorReq dir 6 x i l) s)

/-- GET_DESCRIPTOR(Other speed configuration) (R228). -/
def serveGetDescriptorOtherSpeedConfiguration (dir : Bool) (x : Byte) (i l : BitVec 16) (s : State) : State :=
  reject (beginRequest (descriptorReq dir 7 x i l) s)

/-- GET_DESCRIPTOR of any other type (R224). -/
def serveGetDescriptorOtherType (dir : Bool) (t x : Byte) (i l : BitVec 16) (s : State) : State :=
  reject (beginRequest (descriptorReq dir t x i l) s)

/-- SET_DESCRIPTOR (R231). -/
def serveSetDescriptor (dir : Bool) (v i l : BitVec 16) (s : State) : State :=
  reject (beginRequest (deviceReq dir 7 v i l) s)

/-- GET_CONFIGURATION (R229). -/
def serveGetConfiguration (dir : Bool) (v i l : BitVec 16) (s : State) : State :=
  deviceGetConfiguration (beginRequest (deviceReq dir 8 v i l) s)

/-- SET_CONFIGURATION (R230). -/
def serveSetConfiguration (dir : Bool) (v i l : BitVec 16) (s : State) : State :=
  deviceSetConfiguration v (beginRequest (deviceReq dir 9 v i l) s)

/-- GET_INTERFACE to the device (R231). -/
def serveGetInterfaceDevice (dir : Bool) (v i l : BitVec 16) (s : State) : State :=
  reject (beginRequest (deviceReq dir 10 v i l) s)

/-- SET_INTERFACE to the device (R231). -/
def serveSetInterfaceDevice (dir : Bool) (v i l : BitVec 16) (s : State) : State :=
  reject (beginRequest (deviceReq dir 11 v i l) s)

/-- SYNCH_FRAME to the device (R231). -/
def serveSynchFrameDevice (dir : Bool) (v i l : BitVec 16) (s : State) : State :=
  reject (beginRequest (deviceReq dir 12 v i l) s)

/-- A reserved standard request to the device (R231). -/
def serveDeviceStandardReserved (dir : Bool) (r : Byte) (v i l : BitVec 16) (s : State) : State :=
  reject (beginRequest (deviceReq dir r v i l) s)

/-- A request to the device that is not Standard (R205, R211). -/
def serveDeviceClassVendorReserved (dir : Bool) (ty : BitVec 2) (r : Byte) (v i l : BitVec 16) (s : State) : State :=
  reject (beginRequest (setupBytes dir ty 0 r v i l) s)

/-- GET_STATUS to an endpoint (R233). -/
def serveGetStatusEndpoint (dir : Bool) (v i l : BitVec 16) (s : State) : State :=
  forLegalEp i (endpointGetStatus l) (beginRequest (endpointReq dir 0 v i l) s)

/-- CLEAR_FEATURE to an endpoint (R234). -/
def serveClearFeatureEndpoint (dir : Bool) (v i l : BitVec 16) (s : State) : State :=
  forLegalEp i (endpointClearHalt v) (beginRequest (endpointReq dir 1 v i l) s)

/-- SET_FEATURE to an endpoint (R235). -/
def serveSetFeatureEndpoint (dir : Bool) (v i l : BitVec 16) (s : State) : State :=
  forLegalEp i (endpointSetHalt v) (beginRequest (endpointReq dir 3 v i l) s)

/-- SYNCH_FRAME to an endpoint (R236). -/
def serveSynchFrameEndpoint (dir : Bool) (v i l : BitVec 16) (s : State) : State :=
  forLegalEp i (fun _ => reject) (beginRequest (endpointReq dir 12 v i l) s)

/-- Any other standard request to an endpoint (R236). -/
def serveEndpointStandardOther (dir : Bool) (r : Byte) (v i l : BitVec 16) (s : State) : State :=
  forLegalEp i (fun _ => reject) (beginRequest (endpointReq dir r v i l) s)

/-- A request to an endpoint that is not Standard (R205, R211). -/
def serveEndpointClassVendorReserved (dir : Bool) (ty : BitVec 2) (r : Byte) (v i l : BitVec 16) (s : State) : State :=
  reject (beginRequest (setupBytes dir ty 2 r v i l) s)

/-- A request to an interface (R237). -/
def serveSetupInterfaceForward (dir : Bool) (ty : BitVec 2) (r : Byte) (v i l : BitVec 16) (s : State) : State :=
  let b := setupBytes dir ty 1 r v i l
  forward b (decodeClassReq b) (beginRequest b s)

/-- A request to another recipient (R205, R211). -/
def serveSetupOtherRecipient (dir : Bool) (ty : BitVec 2) (p : BitVec 5) (r : Byte) (v i l : BitVec 16) (s : State) : State :=
  reject (beginRequest (setupBytes dir ty p r v i l) s)

/-- GET MAX LUN (42 R265). -/
def serveGetMaxLun (v i l : BitVec 16) (s : State) : State :=
  let b := setupBytes true 1 1 0xFE v i l
  forward b (.getMaxLun v i l) (beginRequest b s)

/-- Bulk-Only Mass Storage Reset (42 R265). -/
def serveBulkOnlyMassStorageReset (v i : BitVec 16) (s : State) : State :=
  let b := setupBytes false 1 1 0xFF v i 0
  forward b (.bulkOnlyMassStorageReset v i) (beginRequest b s)

/-- A class request the mass-storage class does not handle (42 R265). It is forwarded whatever its recipient (assumption log 38). -/
def serveClassreqOther (m r : Byte) (v i l : BitVec 16) (s : State) : State :=
  let b := setupBytes (reqDir m) (reqType m) (reqRecip m) r v i l
  forward b (.classreqOther m r v i l) (beginRequest b s)

/-- dispatch() on a decoded request (R205). The last arm's instructions are no SETUP rows; no request decodes to one. -/
def serveRequest (i : Instr) (s : State) : State :=
  match i with
  | .getStatusDevice dir v i l => serveGetStatusDevice dir v i l s
  | .clearFeatureDevice dir v i l => serveClearFeatureDevice dir v i l s
  | .setFeatureDevice dir v i l => serveSetFeatureDevice dir v i l s
  | .setAddress dir v i l => serveSetAddress dir v i l s
  | .getDescriptorDevice dir x i l => serveGetDescriptorDevice dir x i l s
  | .getDescriptorConfiguration dir x i l => serveGetDescriptorConfiguration dir x i l s
  | .getDescriptorString dir x i l => serveGetDescriptorString dir x i l s
  | .getDescriptorDeviceQualifier dir x i l => serveGetDescriptorDeviceQualifier dir x i l s
  | .getDescriptorOtherSpeedConfiguration dir x i l => serveGetDescriptorOtherSpeedConfiguration dir x i l s
  | .getDescriptorOtherType dir t x i l => serveGetDescriptorOtherType dir t x i l s
  | .setDescriptor dir v i l => serveSetDescriptor dir v i l s
  | .getConfiguration dir v i l => serveGetConfiguration dir v i l s
  | .setConfiguration dir v i l => serveSetConfiguration dir v i l s
  | .getInterfaceDevice dir v i l => serveGetInterfaceDevice dir v i l s
  | .setInterfaceDevice dir v i l => serveSetInterfaceDevice dir v i l s
  | .synchFrameDevice dir v i l => serveSynchFrameDevice dir v i l s
  | .deviceStandardReserved dir r v i l => serveDeviceStandardReserved dir r v i l s
  | .deviceClassVendorReserved dir ty r v i l => serveDeviceClassVendorReserved dir ty r v i l s
  | .getStatusEndpoint dir v i l => serveGetStatusEndpoint dir v i l s
  | .clearFeatureEndpoint dir v i l => serveClearFeatureEndpoint dir v i l s
  | .setFeatureEndpoint dir v i l => serveSetFeatureEndpoint dir v i l s
  | .synchFrameEndpoint dir v i l => serveSynchFrameEndpoint dir v i l s
  | .endpointStandardOther dir r v i l => serveEndpointStandardOther dir r v i l s
  | .endpointClassVendorReserved dir ty r v i l => serveEndpointClassVendorReserved dir ty r v i l s
  | .setupInterfaceForward dir ty r v i l => serveSetupInterfaceForward dir ty r v i l s
  | .setupOtherRecipient dir ty p r v i l => serveSetupOtherRecipient dir ty p r v i l s
  | _ => reject s

/-! ## Meanings of the SETUP and CLASSREQ rows -/

/-- GET_STATUS to the device (R220). -/
def execGetStatusDevice (dir : Bool) (v i l : BitVec 16) (s : State) : StepResult :=
  agentStep s (serveGetStatusDevice dir v i l)

/-- CLEAR_FEATURE to the device (R221). -/
def execClearFeatureDevice (dir : Bool) (v i l : BitVec 16) (s : State) : StepResult :=
  agentStep s (serveClearFeatureDevice dir v i l)

/-- SET_FEATURE to the device (R222). -/
def execSetFeatureDevice (dir : Bool) (v i l : BitVec 16) (s : State) : StepResult :=
  agentStep s (serveSetFeatureDevice dir v i l)

/-- SET_ADDRESS (R223). -/
def execSetAddress (dir : Bool) (v i l : BitVec 16) (s : State) : StepResult :=
  agentStep s (serveSetAddress dir v i l)

/-- GET_DESCRIPTOR(Device) (R225). -/
def execGetDescriptorDevice (dir : Bool) (x : Byte) (i l : BitVec 16) (s : State) : StepResult :=
  agentStep s (serveGetDescriptorDevice dir x i l)

/-- GET_DESCRIPTOR(Configuration) (R226). -/
def execGetDescriptorConfiguration (dir : Bool) (x : Byte) (i l : BitVec 16) (s : State) : StepResult :=
  agentStep s (serveGetDescriptorConfiguration dir x i l)

/-- GET_DESCRIPTOR(String) (R227). -/
def execGetDescriptorString (dir : Bool) (x : Byte) (i l : BitVec 16) (s : State) : StepResult :=
  agentStep s (serveGetDescriptorString dir x i l)

/-- GET_DESCRIPTOR(Device qualifier) (R228). -/
def execGetDescriptorDeviceQualifier (dir : Bool) (x : Byte) (i l : BitVec 16) (s : State) : StepResult :=
  agentStep s (serveGetDescriptorDeviceQualifier dir x i l)

/-- GET_DESCRIPTOR(Other speed configuration) (R228). -/
def execGetDescriptorOtherSpeedConfiguration (dir : Bool) (x : Byte) (i l : BitVec 16) (s : State) : StepResult :=
  agentStep s (serveGetDescriptorOtherSpeedConfiguration dir x i l)

/-- GET_DESCRIPTOR of any other type (R224). -/
def execGetDescriptorOtherType (dir : Bool) (t x : Byte) (i l : BitVec 16) (s : State) : StepResult :=
  agentStep s (serveGetDescriptorOtherType dir t x i l)

/-- SET_DESCRIPTOR (R231). -/
def execSetDescriptor (dir : Bool) (v i l : BitVec 16) (s : State) : StepResult :=
  agentStep s (serveSetDescriptor dir v i l)

/-- GET_CONFIGURATION (R229). -/
def execGetConfiguration (dir : Bool) (v i l : BitVec 16) (s : State) : StepResult :=
  agentStep s (serveGetConfiguration dir v i l)

/-- SET_CONFIGURATION (R230). -/
def execSetConfiguration (dir : Bool) (v i l : BitVec 16) (s : State) : StepResult :=
  agentStep s (serveSetConfiguration dir v i l)

/-- GET_INTERFACE to the device (R231). -/
def execGetInterfaceDevice (dir : Bool) (v i l : BitVec 16) (s : State) : StepResult :=
  agentStep s (serveGetInterfaceDevice dir v i l)

/-- SET_INTERFACE to the device (R231). -/
def execSetInterfaceDevice (dir : Bool) (v i l : BitVec 16) (s : State) : StepResult :=
  agentStep s (serveSetInterfaceDevice dir v i l)

/-- SYNCH_FRAME to the device (R231). -/
def execSynchFrameDevice (dir : Bool) (v i l : BitVec 16) (s : State) : StepResult :=
  agentStep s (serveSynchFrameDevice dir v i l)

/-- A reserved standard request to the device (R231). -/
def execDeviceStandardReserved (dir : Bool) (r : Byte) (v i l : BitVec 16) (s : State) : StepResult :=
  agentStep s (serveDeviceStandardReserved dir r v i l)

/-- A request to the device that is not Standard (R205, R211). -/
def execDeviceClassVendorReserved (dir : Bool) (ty : BitVec 2) (r : Byte) (v i l : BitVec 16) (s : State) : StepResult :=
  agentStep s (serveDeviceClassVendorReserved dir ty r v i l)

/-- GET_STATUS to an endpoint (R233). -/
def execGetStatusEndpoint (dir : Bool) (v i l : BitVec 16) (s : State) : StepResult :=
  agentStep s (serveGetStatusEndpoint dir v i l)

/-- CLEAR_FEATURE to an endpoint (R234). -/
def execClearFeatureEndpoint (dir : Bool) (v i l : BitVec 16) (s : State) : StepResult :=
  agentStep s (serveClearFeatureEndpoint dir v i l)

/-- SET_FEATURE to an endpoint (R235). -/
def execSetFeatureEndpoint (dir : Bool) (v i l : BitVec 16) (s : State) : StepResult :=
  agentStep s (serveSetFeatureEndpoint dir v i l)

/-- SYNCH_FRAME to an endpoint (R236). -/
def execSynchFrameEndpoint (dir : Bool) (v i l : BitVec 16) (s : State) : StepResult :=
  agentStep s (serveSynchFrameEndpoint dir v i l)

/-- Any other standard request to an endpoint (R236). -/
def execEndpointStandardOther (dir : Bool) (r : Byte) (v i l : BitVec 16) (s : State) : StepResult :=
  agentStep s (serveEndpointStandardOther dir r v i l)

/-- A request to an endpoint that is not Standard (R205, R211). -/
def execEndpointClassVendorReserved (dir : Bool) (ty : BitVec 2) (r : Byte) (v i l : BitVec 16) (s : State) : StepResult :=
  agentStep s (serveEndpointClassVendorReserved dir ty r v i l)

/-- A request to an interface (R237). -/
def execSetupInterfaceForward (dir : Bool) (ty : BitVec 2) (r : Byte) (v i l : BitVec 16) (s : State) : StepResult :=
  agentStep s (serveSetupInterfaceForward dir ty r v i l)

/-- A request to another recipient (R205, R211). -/
def execSetupOtherRecipient (dir : Bool) (ty : BitVec 2) (p : BitVec 5) (r : Byte) (v i l : BitVec 16) (s : State) : StepResult :=
  agentStep s (serveSetupOtherRecipient dir ty p r v i l)

/-- GET MAX LUN (42 R265). -/
def execGetMaxLun (v i l : BitVec 16) (s : State) : StepResult :=
  agentStep s (serveGetMaxLun v i l)

/-- Bulk-Only Mass Storage Reset (42 R265). -/
def execBulkOnlyMassStorageReset (v i : BitVec 16) (s : State) : StepResult :=
  agentStep s (serveBulkOnlyMassStorageReset v i)

/-- A class request the mass-storage class does not handle (42 R265), whatever its recipient (assumption log 38). -/
def execClassreqOther (m r : Byte) (v i l : BitVec 16) (s : State) : StepResult :=
  agentStep s (serveClassreqOther m r v i l)

end Sys2Proof.Machine
end

