-- ==== Sys2Proof/Machine/Events.lean ====
section
/-!
DEFINITION. The event handler (60_exceptions R333-R337), the completions it services (40 R163-R165; 41 R202, R203, R243, R244), the bus
reset and the power-on (70 R371, R372), and the meanings of the EVT and RST rows. No state is saved on entry to the handler and
none restored on its end (R336).
-/

namespace Sys2Proof.Machine

/-! ## Completions -/

/-- callback(id, ep, n) (40 R165). The id alone decides: BOT_IN and BOT_OUT run under CLASS = OPAQUE too, and CLASS(k) under CLASS = MSC
(assumption log 37). -/
def callback (id : Option CallbackId) (ep : EpAddr) (n : Nat) (s : State) : State :=
  match id with
  | some .ctrlIn => ctrlInDone s
  | some .ctrlOut => ctrlOutDone s
  | some .botIn => botInDone n s
  | some .botOut => botOutDone n s
  | some (.cls k) => runClass (.callback k ep n) s
  | none => s

/-- The end of a transfer: the record is closed for it, then its callback runs (40 R163, R164, R166). -/
def transferDone (ep : EpAddr) (s : State) : State :=
  callback (s.ep ep).callback ep (s.ep ep).transferred (s.modEp ep (fun e => { e with active := false }))

/-- `n` more bytes of a transfer have moved (40 R163, R164). -/
def countBytes (ep : EpAddr) (n : Nat) (s : State) : State :=
  s.modEp ep (fun e => { e with transferred := e.transferred + n, remaining := e.remaining - n })

/-- The completion is consumed (40 R163, R164). -/
def clearCtr (ep : EpAddr) (s : State) : State := s.modHw ep (fun h => { h with ctr := false })

/-- IN completion (40 R163). -/
def inCompletion (ep : EpAddr) (s : State) : State :=
  let s := clearCtr ep s
  if !(s.ep ep).active then s
  else
    let t := countBytes ep (s.ep ep).inflight s
    if 0 < (t.ep ep).remaining then loadIn ep t else transferDone ep t

/-- The bytes an OUT packet delivers: the packet, cut to the bytes still wanted (40 R164, D15). -/
def deliverOut (ep : EpAddr) (c : Nat) (s : State) : State :=
  let off := unloadRegion (s.ep ep) (s.hw ep)
  if off + c ≤ s.cfg.pmaSize then
    (bufWrite (s.ep ep).buf (s.ep ep).transferred (pmaRead s off c) s).andThen (countBytes ep c)
  else s.raise .pmaRange

/-- OUT completion (40 R164). -/
def outCompletion (ep : EpAddr) (s : State) : State :=
  let s := clearCtr ep s
  if !(s.ep ep).active then s
  else
    let k := (s.hw ep).count
    (deliverOut ep (min k (s.ep ep).remaining) s).andThen (fun t =>
      if (t.ep ep).remaining = 0 ∨ k < (t.ep ep).mps then transferDone ep t else arm ep t)

/-! ## SETUP servicing (41 R202) -/

/-- The eight bytes of a SETUP in packet memory (41 R202). -/
def setupPacket (s : State) : Vector Byte 8 :=
  let o := (s.ep ctlOut).off0
  #v[pmaByte s o, pmaByte s (o + 1), pmaByte s (o + 2), pmaByte s (o + 3), pmaByte s (o + 4), pmaByte s (o + 5),
     pmaByte s (o + 6), pmaByte s (o + 7)]

/-- A SETUP's bytes are taken and dispatched; a count other than 8 is rejected (41 R202, R203). -/
def takeSetup (k : Nat) (s : State) : State :=
  if k ≠ 8 then reject s
  else if s.cfg.pmaSize < (s.ep ctlOut).off0 + 8 then s.raise .pmaRange
  else serveRequest (decodeRequest (setupPacket s)) s

/-- SETUP servicing (41 R202). -/
def setupService (s : State) : State :=
  takeSetup (s.hw ctlOut).count
    (setupClear (s.modHw ctlOut (fun h => { h with ctr := false, setup := false })))

/-! ## Resets (70 R371, R372) -/

/-- The control session after a bus reset; `req` and `scratch` keep their values (70 R371, 10 R41). -/
def resetSession (c : Control) : Control :=
  { c with address := 0, pendingAddr := none, config := 0, remoteWakeup := false, ctrlState := .idle, ctrlLen := 0,
           zlpPending := false, devState := .default, savedState := .default }

/-- What 10_state R41's table sets after a bus reset beyond R371's writes: no suspend or resume pending, every endpoint status zero,
the sequencer in BOT_IDLE with no ZLP owed (assumption log 34). -/
def resetRemainder (s : State) : State :=
  ((s.modPeriph (fun p => { p with pendSuspend := false, pendResume := false })).modHws (fun _ => EpHw.disabled)).modBot
    (fun b => { b with state := .idle, zlp := false })

/-- Every endpoint closed, the allocator and the session rewound, address 0 (70 R371, 10 R41). -/
def resetFields (s : State) : State :=
  setHwAddress 0 (((resetRemainder (s.modEps closeRecord)).setPmaNext s.cfg.pmaBase).modCtl resetSession)

/-- The bus reset after the class has been left (70 R371). -/
def reopenControl (s : State) : State :=
  (epOpen ctlOut .control s.cfg.ep0Mps .ctrlOut (resetFields s)).andThen (epOpen ctlIn .control s.cfg.ep0Mps .ctrlIn)

/-- bus_reset() (70 R371). -/
def busReset (s : State) : State :=
  (leaveClass (s.modPeriph (fun p => { p with pendReset := false }))).andThen reopenControl

/-- What power-on sets before peripheral.init(): the fields R371 does not write (70 R372). The storage, the class layer's memory and
the inputs still to come are not the block's (assumption log 31). -/
def powerOnFields (s : State) : State :=
  { State.powerOn s.cfg with
    eps := Vector.replicate 32 EpRec.closed, hws := Vector.replicate 32 EpHw.disabled, pmaNext := s.cfg.pmaBase,
    periph := ⟨false, 0, false, false, false⟩, blocks := s.blocks, app := s.app, script := s.script,
    answers := s.answers, classRuns := s.classRuns, draws := s.draws, epoch := s.epoch + 1 }

/-- Power-on (70 R372): the fields, peripheral.init(), the bus-reset actions, peripheral.start(). No rule has the block call
peripheral.stop(): the schedule may (assumption log 32). -/
def powerOn (s : State) : State := (busReset (peripheralInit (powerOnFields s))).andThen peripheralStart

/-! ## Suspend and resume (41 R243, R244) -/

/-- Suspend servicing (41 R243). -/
def suspendService (s : State) : State :=
  (s.modPeriph (fun p => { p with pendSuspend := false })).modCtl (fun c =>
    if c.devState = .suspended then c else { c with savedState := c.devState, devState := .suspended })

/-- Resume servicing (41 R244). -/
def resumeService (s : State) : State :=
  (s.modPeriph (fun p => { p with pendResume := false })).modCtl (fun c =>
    if c.devState = .suspended then { c with devState := c.savedState } else c)

/-! ## Meanings of the EVT and RST rows -/

/-- The guard of a handler step: the event is pending, and a pending bus reset comes first (60 R335, R336). -/
def eventGuard (isPending : State → Bool) (s : State) : Option NoStep :=
  if !isPending s then some .notPending else if s.periph.pendReset then some .resetFirst else none

/-- Servicing a completion (60 R336). -/
def ctrService (ep : EpAddr) (s : State) : State :=
  if ep = ctlOut ∧ (s.hw ctlOut).setup = true then setupService s
  else if ep.isIn then inCompletion ep s
  else outCompletion ep s

/-- EV_RESET (70 R371). -/
def execEvReset (s : State) : StepResult :=
  guardedStep s (fun s => if s.periph.pendReset then none else some .notPending) busReset

/-- EV_CTR (60 R336). -/
def execEvCtr (ep : EpAddr) (s : State) : StepResult :=
  guardedStep s (eventGuard (fun s => ctrPending s ep)) (ctrService ep)

/-- EV_SUSPEND (41 R243). -/
def execEvSuspend (s : State) : StepResult :=
  guardedStep s (eventGuard (fun s => s.periph.pendSuspend)) suspendService

/-- EV_RESUME (41 R244). -/
def execEvResume (s : State) : StepResult :=
  guardedStep s (eventGuard (fun s => s.periph.pendResume)) resumeService

/-- RST_POWER_ON (70 R372). -/
def execRstPowerOn (s : State) : StepResult := agentStep s powerOn

/-! ## What step asks of the schedule (30_encoding R130; assumption logs 2, 5, 32) -/

/-- A call of the peripheral interface that the platform's software schedules: no rule and no row calls `stop` (40 R177, 00_scope R4,
assumption log 32). -/
def peripheralCall (bytes : List Byte) : Option (State → State) :=
  match bytes with
  | [0#8] => some peripheralInit
  | [1#8] => some peripheralStart
  | [2#8] => some peripheralStop
  | _ => none

/-- A scheduled word that is no row's instruction: a control request that is not eight bytes long is rejected before any decoding (41
R203, 30_encoding R116), a call of the peripheral interface is made, and a word of no format the block handles is refused (R100). -/
def runOther (w : OpWord) (e : DecodeError) (s : State) : StepResult :=
  match w.fmt with
  | .setup | .classReq => agentStep s reject
  | .periph =>
    match peripheralCall w.bytes with
    | some f => agentStep s f
    | none => .refused (.undecodable e)
  | .op | .cbw | .cdb => .refused (.undecodable e)

/-- The handler's own move when the schedule is empty: the one pending event, or a free choice of several (60 R335, U5). -/
def handlerMove (s : State) : Option (Instr × State) :=
  match pendingEvents s with
  | [] => none
  | [i] => some (i, s)
  | i :: j :: rest =>
    some ((i :: j :: rest).getD (Config.serviceChoice s.draws % (rest.length + 2)) i, useDraw s)

/-- Nothing is scheduled and nothing pending: no agent moves. -/
def idleStep (s : State) : StepResult := agentStep s id

/-- The schedule's next word, taken off it. -/
def nextWord (s : State) : Option (OpWord × State) :=
  match s.script with
  | [] => none
  | w :: rest => some (w, { s with script := rest })

/-- The schedule holding one word. -/
def withWord (w : OpWord) (s : State) : State := { s with script := [w] }

end Sys2Proof.Machine
end

