-- ==== Sys2Proof/Machine/Dispatch.lean ====
section
/-!
DEFINITION. exec: one arm per instruction, each a direct call of its meaning.
-/

namespace Sys2Proof.Machine

def exec (i : Instr) (s : State) : Host.Outcome State Fault Refusal :=
  match i with
  | .epOpen ep type mps cb => Sys2Proof.Machine.execEpOpen ep type mps cb s
  | .epClose ep => Sys2Proof.Machine.execEpClose ep s
  | .epRead ep buf len => Sys2Proof.Machine.execEpRead ep buf len s
  | .epWrite ep buf len => Sys2Proof.Machine.execEpWrite ep buf len s
  | .epWriteZlp ep => Sys2Proof.Machine.execEpWriteZlp ep s
  | .epStall ep => Sys2Proof.Machine.execEpStall ep s
  | .epDestall ep => Sys2Proof.Machine.execEpDestall ep s
  | .epIsOpen ep => Sys2Proof.Machine.execEpIsOpen ep s
  | .epIsStalled ep => Sys2Proof.Machine.execEpIsStalled ep s
  | .pmaAlloc size => Sys2Proof.Machine.execPmaAlloc size s
  | .ctlSend buf len => Sys2Proof.Machine.execCtlSend buf len s
  | .ctlReceive buf len => Sys2Proof.Machine.execCtlReceive buf len s
  | .hostBusReset => Sys2Proof.Machine.execHostBusReset s
  | .hostSetup addr bytes => Sys2Proof.Machine.execHostSetup addr bytes s
  | .hostOut addr ep bytes => Sys2Proof.Machine.execHostOut addr ep bytes s
  | .hostIn addr ep => Sys2Proof.Machine.execHostIn addr ep s
  | .hostSuspend => Sys2Proof.Machine.execHostSuspend s
  | .hostResume => Sys2Proof.Machine.execHostResume s
  | .evReset => Sys2Proof.Machine.execEvReset s
  | .evCtr ep => Sys2Proof.Machine.execEvCtr ep s
  | .evSuspend => Sys2Proof.Machine.execEvSuspend s
  | .evResume => Sys2Proof.Machine.execEvResume s
  | .rstPowerOn => Sys2Proof.Machine.execRstPowerOn s
  | .getStatusDevice dir wValue wIndex wLength => Sys2Proof.Machine.execGetStatusDevice dir wValue wIndex wLength s
  | .clearFeatureDevice dir wValue wIndex wLength => Sys2Proof.Machine.execClearFeatureDevice dir wValue wIndex wLength s
  | .setFeatureDevice dir wValue wIndex wLength => Sys2Proof.Machine.execSetFeatureDevice dir wValue wIndex wLength s
  | .setAddress dir wValue wIndex wLength => Sys2Proof.Machine.execSetAddress dir wValue wIndex wLength s
  | .getDescriptorDevice dir index wIndex wLength => Sys2Proof.Machine.execGetDescriptorDevice dir index wIndex wLength s
  | .getDescriptorConfiguration dir index wIndex wLength => Sys2Proof.Machine.execGetDescriptorConfiguration dir index wIndex wLength s
  | .getDescriptorString dir index wIndex wLength => Sys2Proof.Machine.execGetDescriptorString dir index wIndex wLength s
  | .getDescriptorDeviceQualifier dir index wIndex wLength => Sys2Proof.Machine.execGetDescriptorDeviceQualifier dir index wIndex wLength s
  | .getDescriptorOtherSpeedConfiguration dir index wIndex wLength => Sys2Proof.Machine.execGetDescriptorOtherSpeedConfiguration dir index wIndex wLength s
  | .getDescriptorOtherType dir dtype index wIndex wLength => Sys2Proof.Machine.execGetDescriptorOtherType dir dtype index wIndex wLength s
  | .setDescriptor dir wValue wIndex wLength => Sys2Proof.Machine.execSetDescriptor dir wValue wIndex wLength s
  | .getConfiguration dir wValue wIndex wLength => Sys2Proof.Machine.execGetConfiguration dir wValue wIndex wLength s
  | .setConfiguration dir wValue wIndex wLength => Sys2Proof.Machine.execSetConfiguration dir wValue wIndex wLength s
  | .getInterfaceDevice dir wValue wIndex wLength => Sys2Proof.Machine.execGetInterfaceDevice dir wValue wIndex wLength s
  | .setInterfaceDevice dir wValue wIndex wLength => Sys2Proof.Machine.execSetInterfaceDevice dir wValue wIndex wLength s
  | .synchFrameDevice dir wValue wIndex wLength => Sys2Proof.Machine.execSynchFrameDevice dir wValue wIndex wLength s
  | .deviceStandardReserved dir bRequest wValue wIndex wLength => Sys2Proof.Machine.execDeviceStandardReserved dir bRequest wValue wIndex wLength s
  | .deviceClassVendorReserved dir type bRequest wValue wIndex wLength => Sys2Proof.Machine.execDeviceClassVendorReserved dir type bRequest wValue wIndex wLength s
  | .getStatusEndpoint dir wValue wIndex wLength => Sys2Proof.Machine.execGetStatusEndpoint dir wValue wIndex wLength s
  | .clearFeatureEndpoint dir wValue wIndex wLength => Sys2Proof.Machine.execClearFeatureEndpoint dir wValue wIndex wLength s
  | .setFeatureEndpoint dir wValue wIndex wLength => Sys2Proof.Machine.execSetFeatureEndpoint dir wValue wIndex wLength s
  | .synchFrameEndpoint dir wValue wIndex wLength => Sys2Proof.Machine.execSynchFrameEndpoint dir wValue wIndex wLength s
  | .endpointStandardOther dir bRequest wValue wIndex wLength => Sys2Proof.Machine.execEndpointStandardOther dir bRequest wValue wIndex wLength s
  | .endpointClassVendorReserved dir type bRequest wValue wIndex wLength => Sys2Proof.Machine.execEndpointClassVendorReserved dir type bRequest wValue wIndex wLength s
  | .setupInterfaceForward dir type bRequest wValue wIndex wLength => Sys2Proof.Machine.execSetupInterfaceForward dir type bRequest wValue wIndex wLength s
  | .setupOtherRecipient dir type recip bRequest wValue wIndex wLength => Sys2Proof.Machine.execSetupOtherRecipient dir type recip bRequest wValue wIndex wLength s
  | .getMaxLun wValue wIndex wLength => Sys2Proof.Machine.execGetMaxLun wValue wIndex wLength s
  | .bulkOnlyMassStorageReset wValue wIndex => Sys2Proof.Machine.execBulkOnlyMassStorageReset wValue wIndex s
  | .classreqOther bmRequestType bRequest wValue wIndex wLength => Sys2Proof.Machine.execClassreqOther bmRequestType bRequest wValue wIndex wLength s
  | .cbw tag dataLength flags cbLength cdb => Sys2Proof.Machine.execCbw tag dataLength flags cbLength cdb s
  | .cbwMalformed bytes => Sys2Proof.Machine.execCbwMalformed bytes s
  | .testUnitReady => Sys2Proof.Machine.execTestUnitReady s
  | .requestSense => Sys2Proof.Machine.execRequestSense s
  | .inquiry => Sys2Proof.Machine.execInquiry s
  | .modeSense6 => Sys2Proof.Machine.execModeSense6 s
  | .startStopUnit => Sys2Proof.Machine.execStartStopUnit s
  | .preventAllowMediumRemoval => Sys2Proof.Machine.execPreventAllowMediumRemoval s
  | .readFormatCapacities => Sys2Proof.Machine.execReadFormatCapacities s
  | .readCapacity10 => Sys2Proof.Machine.execReadCapacity10 s
  | .read10 lba count => Sys2Proof.Machine.execRead10 lba count s
  | .write10 lba count => Sys2Proof.Machine.execWrite10 lba count s
  | .verify10 lba count => Sys2Proof.Machine.execVerify10 lba count s
  | .modeSense10 => Sys2Proof.Machine.execModeSense10 s
  | .cdbUnsupported opcode => Sys2Proof.Machine.execCdbUnsupported opcode s

end Sys2Proof.Machine
end

