-- ==== Sys2Proof/Machine/Step.lean ====
section
/-!
DEFINITION. One step of the machine: the next agent step of the schedule, decoded and executed; with an empty schedule, the handler's own
move (30_encoding R130, 60_exceptions R335; assumption logs 2, 5).
-/

namespace Sys2Proof.Machine

/-- A configuration that is not well-formed is refused before any step (00_scope R11). -/
def underWfConfig (s : State) (r : StepResult) : StepResult := if configWf s.cfg then r else .refused .configRefused

/-- A scheduled word is decoded and runs. -/
def runWord (w : OpWord) (s : State) : StepResult :=
  match decode w with
  | .ok i => exec i s
  | .error e => runOther w e s

/-- The handler's own move, or none. -/
def runHandler (s : State) : StepResult :=
  match handlerMove s with
  | some (i, t) => exec i t
  | none => idleStep s

def step (s : State) : Host.Outcome State Fault Refusal :=
  match nextWord s with
  | some (w, t) => underWfConfig s (runWord w t)
  | none => underWfConfig s (runHandler s)

/-- The state whose next step runs the instruction of a table row (assumption log 2). -/
def State.withFetchWord (s : State) (nbits w : Nat) : State := withWord (tableWord nbits w) s

end Sys2Proof.Machine
end

