-- ==== Sys2Proof/Safety.lean ====
section
/-!
DEFINITION. What counts as a safe state and a safe step, in the words the claims use: what stays unchanged, what it means that a transfer is
posted, a request recorded, answered or rejected, and the invariants of the block (10_state R23, R27, R28).
-/

namespace Sys2Proof.Machine

/-! ## Frames -/

/-- Every byte of packet memory, of every buffer and of the storage reads as before. -/
def BytesKept (s t : State) : Prop :=
  (∀ a, pmaByte t a = pmaByte s a) ∧ (∀ b i, bufByte t b i = bufByte s b i) ∧ (∀ a, storageByte t a = storageByte s a)

/-- Every byte of packet memory outside `[off, off + n)` reads as before. -/
def PmaKeptOutside (off n : Nat) (s t : State) : Prop := ∀ a, a < off ∨ off + n ≤ a → pmaByte t a = pmaByte s a

/-- Endpoints other than those named keep their record and their status. -/
def OtherEpsKept (touched : List EpAddr) (s t : State) : Prop :=
  ∀ a, a ∉ touched → t.ep a = s.ep a ∧ t.hw a = s.hw a

/-- Only the records and statuses of the endpoints named may differ. -/
def OnlyEps (touched : List EpAddr) (s t : State) : Prop :=
  t = { s with eps := t.eps, hws := t.hws } ∧ OtherEpsKept touched s t ∧ BytesKept s t

/-! ## Events (60_exceptions R333) -/

/-- The event a handler step would service is pending (R333, R336). -/
def EventPending (i : Instr) (s : State) : Prop :=
  (i = .evReset ∧ s.periph.pendReset = true) ∨ (i = .evSuspend ∧ s.periph.pendSuspend = true)
    ∨ (i = .evResume ∧ s.periph.pendResume = true)
    ∨ ∃ a, i = .evCtr a ∧ a.num.toNat < s.cfg.nEp ∧ (s.hw a).ctr = true

/-! ## Endpoints (40_endpoint_engine R150) -/

/-- check_open and check_dir pass (R150). -/
def EpUsable (ep : EpAddr) (s : State) : Prop :=
  s.fault = none ∧ ep.num.toNat < s.cfg.nEp ∧ (s.ep ep).isOpen = true

/-- The packet-memory region an IN packet of this endpoint goes to: region 1 of a double-buffered endpoint whose region bit is
set, else region 0 (R162). -/
def inRegion (ep : EpAddr) (s : State) : Nat :=
  if (s.ep ep).dbuf = true ∧ (s.hw ep).bufSel = true then (s.ep ep).off1 else (s.ep ep).off0

/-- A region is within packet memory (10_state R23). -/
def RegionFits (ep : EpAddr) (s : State) : Prop := inRegion ep s + (s.ep ep).mps ≤ s.cfg.pmaSize

/-- The handshake of an endpoint that has just been armed: VALID, unless it is stalled (R154, R161). -/
def armedStat (ep : EpAddr) (s : State) : EpStat := if (s.ep ep).stalled then (s.hw ep).stat else .valid

/-- What EP_READ leaves in its endpoint (R154). -/
def ReadPosted (ep : EpAddr) (buf : BufRef) (len : Nat) (s t : State) : Prop :=
  t.ep ep = { s.ep ep with buf := buf, remaining := len, transferred := 0, active := true }
    ∧ t.hw ep = { s.hw ep with ctr := false, stat := armedStat ep s }

/-- What EP_WRITE leaves in its endpoint and in packet memory (R155, R161): the first packet of `len` bytes is loaded. -/
def WritePosted (ep : EpAddr) (buf : BufRef) (len : Nat) (s t : State) : Prop :=
  let n := min len (s.ep ep).mps
  t.ep ep = { s.ep ep with buf := buf, remaining := len, transferred := 0, active := true, inflight := n }
    ∧ t.hw ep = { s.hw ep with count := n, ctr := false, stat := armedStat ep s }
    ∧ (∀ i, i < n → pmaByte t (inRegion ep s + i) = bufByte t buf i)
    ∧ PmaKeptOutside (inRegion ep s) n s t

/-- What EP_STALL leaves in its endpoint (R157). -/
def StallSet (ep : EpAddr) (s t : State) : Prop :=
  t.ep ep = { s.ep ep with stalled := true, active := false }
    ∧ t.hw ep = { s.hw ep with stat := .stall, ctr := (s.hw ep).ctr && (s.hw ep).setup }

/-- The packet-memory region an OUT packet just received is in: region 0 of a double-buffered endpoint whose region bit is set,
region 1 where it is clear, else region 0 (R162). -/
def outRegion (ep : EpAddr) (s : State) : Nat :=
  if (s.ep ep).dbuf = true ∧ (s.hw ep).bufSel = false then (s.ep ep).off1 else (s.ep ep).off0

/-- A byte of a buffer as a place: a byte of its array, and for the class layer's arrays a byte of their one memory (20_memory
R72). -/
def bufferCell (b : BufRef) (i : Nat) : BufArray × Nat :=
  match b.array with
  | .app base _ => (.app 0 0, base.toNat + (i + b.off.toNat))
  | a => (a, i + b.off.toNat)

/-- Every buffer byte but the `n` bytes of `buf` from `off` on reads as before. -/
def BuffersKeptOutside (buf : BufRef) (off n : Nat) (s t : State) : Prop :=
  ∀ b i, (∀ j, j < n → bufferCell b i ≠ bufferCell buf (off + j)) → bufByte t b i = bufByte s b i

/-- The completion of a packet on this endpoint may be serviced (60 R335, R336), and it is no SETUP. -/
def PacketPending (ep : EpAddr) (s : State) : Prop :=
  s.fault = none ∧ s.periph.pendReset = false ∧ ep.num.toNat < s.cfg.nEp ∧ (s.hw ep).ctr = true
    ∧ (ep = ctlOut → (s.hw ctlOut).setup = false)

/-- The last IN packet of a transfer is pending (R163). -/
def LastInPending (ep : EpAddr) (s : State) : Prop :=
  PacketPending ep s ∧ ep.isIn = true ∧ (s.ep ep).active = true ∧ (s.ep ep).remaining ≤ (s.ep ep).inflight

/-- The record of an IN endpoint when its last packet has been counted (R163). -/
def inDone (e : EpRec) : EpRec :=
  { e with transferred := e.transferred + e.inflight, remaining := e.remaining - e.inflight, active := false }

/-- The bytes a received OUT packet delivers: its bytes, cut to those still wanted (R164). -/
def outTaken (ep : EpAddr) (s : State) : Nat := min (s.hw ep).count (s.ep ep).remaining

/-- The last OUT packet of a transfer is pending: it fills the transfer, or it is short (R164); it lies in packet memory and its
buffer has room. -/
def LastOutPending (ep : EpAddr) (s : State) : Prop :=
  PacketPending ep s ∧ ep.isIn = false ∧ (s.ep ep).active = true
    ∧ ((s.ep ep).remaining ≤ (s.hw ep).count ∨ (s.hw ep).count < (s.ep ep).mps)
    ∧ outRegion ep s + outTaken ep s ≤ s.cfg.pmaSize
    ∧ writeFits s.cfg (s.ep ep).buf ((s.ep ep).transferred + outTaken ep s) = true

/-- The record of an OUT endpoint when its last packet has been counted (R164). -/
def outDone (ep : EpAddr) (s : State) : EpRec :=
  { s.ep ep with transferred := (s.ep ep).transferred + outTaken ep s, remaining := (s.ep ep).remaining - outTaken ep s,
                 active := false }

/-- The last packet of an OUT transfer has been delivered and counted (R164): `w` is the state before the transfer's callback. -/
def OutDelivered (ep : EpAddr) (s w : State) : Prop :=
  (∀ j, j < outTaken ep s → bufByte w (s.ep ep).buf ((s.ep ep).transferred + j) = pmaByte s (outRegion ep s + j))
    ∧ BuffersKeptOutside (s.ep ep).buf (s.ep ep).transferred (outTaken ep s) s w
    ∧ w.ep ep = outDone ep s ∧ w.hw ep = { s.hw ep with ctr := false }
    ∧ w = { s with eps := w.eps, hws := w.hws, app := w.app, ctl := { s.ctl with scratch := w.ctl.scratch },
                   scsi := { s.scsi with work := w.scsi.work },
                   bot := { s.bot with cbwBuf := w.bot.cbwBuf, cswBuf := w.bot.cswBuf } }
    ∧ OtherEpsKept [ep] s w

/-- The last packet of an IN transfer has been counted (R163): `w` is the state before the transfer's callback. -/
def InDelivered (ep : EpAddr) (s w : State) : Prop :=
  w.ep ep = inDone (s.ep ep) ∧ w.hw ep = { s.hw ep with ctr := false } ∧ OnlyEps [ep] s w

/-! ## The bus reset (70_reset_and_hazards R371) -/

/-- What a bus reset leaves of the state `u` in which no class is active any more (70 R371; 10_state R41): every endpoint closed and
its status zero, the control pair opened afresh, session, allocator and pending flags at their reset values, every byte kept. -/
def BusResetLeaves (u t : State) : Prop :=
  t.fault = none
    ∧ t.pmaNext = u.cfg.pmaBase + 2 * u.cfg.ep0Mps
    ∧ t.ep ctlOut = { u.ep ctlOut with
        isOpen := true, type := .control, mps := u.cfg.ep0Mps, dbuf := false, off0 := u.cfg.pmaBase, stalled := false,
        active := false, remaining := 0, transferred := 0, inflight := 0, callback := some .ctrlOut }
    ∧ t.ep ctlIn = { u.ep ctlIn with
        isOpen := true, type := .control, mps := u.cfg.ep0Mps, dbuf := false, off0 := u.cfg.pmaBase + u.cfg.ep0Mps,
        stalled := false, active := false, remaining := 0, transferred := 0, inflight := 0, callback := some .ctrlIn }
    ∧ t.hw ctlOut = ⟨.valid, false, 0, false, false, false⟩
    ∧ t.hw ctlIn = ⟨.nak, false, 0, false, false, false⟩
    ∧ (∀ a, a ≠ ctlOut → a ≠ ctlIn →
        t.ep a = { u.ep a with isOpen := false, stalled := false, active := false }
        ∧ t.hw a = ⟨.disabled, false, 0, false, false, false⟩)
    ∧ t.periph = ⟨u.periph.started, 0, false, false, false⟩
    ∧ t.ctl = { u.ctl with
        address := 0, pendingAddr := none, config := 0, remoteWakeup := false, ctrlState := .idle, ctrlLen := 0,
        zlpPending := false, devState := .default, savedState := .default, classActive := false }
    ∧ t.bot = { u.bot with state := .idle, zlp := false }
    ∧ t = { u with pmaNext := t.pmaNext, eps := t.eps, hws := t.hws, periph := t.periph, ctl := t.ctl, bot := t.bot }
    ∧ BytesKept u t

/-! ## The control pipe (41_control_transfer) -/

/-- The control pair is open (R200). -/
def ControlOpen (s : State) : Prop :=
  s.fault = none ∧ 0 < s.cfg.nEp ∧ (s.ep ctlOut).isOpen = true ∧ (s.ep ctlIn).isOpen = true

/-- The control pair is open and control IN's region lies in packet memory. -/
def ControlReady (s : State) : Prop := ControlOpen s ∧ RegionFits ctlIn s

/-- The eight bytes of a request row, from its encoding (30_encoding R101). -/
def requestOf (i : Instr) : Vector Byte 8 :=
  let b := (encode i).bytes
  #v[byteAt b 0, byteAt b 1, byteAt b 2, byteAt b 3, byteAt b 4, byteAt b 5, byteAt b 6, byteAt b 7]

/-- wLength of a request row, from its encoding (30_encoding R101). -/
def lengthOf (i : Instr) : Nat := (byteAt (encode i).bytes 6).toNat + 256 * (byteAt (encode i).bytes 7).toNat

/-- The control session once a request is recorded (R202). -/
def recorded (i : Instr) (c : Control) : Control :=
  { c with req := requestOf i, ctrlLen := lengthOf i, ctrlState := .setup }

/-- Only the control pair, the control session and packet memory may differ, and of the buffers only `scratch`. -/
def OnlyControl (s t : State) : Prop :=
  t = { s with eps := t.eps, hws := t.hws, ctl := t.ctl, pma := t.pma }
    ∧ OtherEpsKept [ctlIn, ctlOut] s t
    ∧ (∀ b i, b.array ≠ .scratch → bufByte t b i = bufByte s b i)
    ∧ (∀ a, storageByte t a = storageByte s a)

/-- reject (R211), from control session `c`: both directions stall, and nothing else of the session changes. -/
def Rejected (c : Control) (s t : State) : Prop :=
  OnlyEps [ctlIn, ctlOut] { s with ctl := t.ctl } t ∧ StallSet ctlIn s t ∧ StallSet ctlOut s t
    ∧ t.ctl = { c with zlpPending := false, ctrlState := .stall }

/-- ctl_status (R208), from control session `c`: the zero-length status IN is loaded. -/
def StatusSent (c : Control) (s t : State) : Prop :=
  OnlyControl s t ∧ t.fault = none ∧ WritePosted ctlIn .none 0 s t
    ∧ t.ep ctlOut = s.ep ctlOut ∧ t.hw ctlOut = s.hw ctlOut
    ∧ t.ctl = { c with ctrlState := .statusIn }

/-- CTL_SEND of a data stage of the bytes `data` in buffer `buf` (R206, R212), from control session `c`: the first packet is
loaded, the status OUT is accepted. -/
def DataSent (buf : BufRef) (data : List Byte) (c : Control) (s t : State) : Prop :=
  OnlyControl s t ∧ t.fault = none ∧ WritePosted ctlIn buf data.length s t ∧ ReadPosted ctlOut .none 0 s t
    ∧ bufRead t buf 0 data.length = data
    ∧ t.ctl = { c with ctrlState := .dataIn, scratch := t.ctl.scratch,
                       zlpPending := decide (data.length % s.cfg.ep0Mps = 0)
                         && (decide (s.cfg.zlpPolicy = .alwaysOnMultiple) || decide (data.length < c.ctrlLen)) }

/-- A control IN answer of `full`, cut to wLength (30_encoding R119): a data stage, or the status where nothing is left. -/
def Answered (buf : BufRef) (full : List Byte) (c : Control) (s t : State) : Prop :=
  let data := full.take c.ctrlLen
  (data ≠ [] → DataSent buf data c s t)
    ∧ (data = [] → StatusSent { c with scratch := t.ctl.scratch } s t)
    ∧ (∀ i, buf ≠ .scratch ∨ full.length ≤ i → bufByte t .scratch i = bufByte s .scratch i)

/-- endpoint_legal (R232). -/
def EndpointLegal (e : EpAddr) (s : State) : Prop :=
  s.ctl.devState = .addressed ∧ e.num = 0
    ∨ s.ctl.devState = .configured ∧ e.num.toNat < s.cfg.nEp ∧ (s.ep e).isOpen = true

/-- The request goes to an active class (R237): a class is active and the interface number is below the advertised count. -/
def ForwardsToClass (i : Instr) (s : State) : Prop :=
  s.ctl.classActive = true ∧ (byteAt (encode i).bytes 4).toNat < s.cfg.interfaceCount

/-! ## The mass-storage class (42_bot_scsi) -/

/-- The bulk pair is two different open endpoints of the right directions, and bulk IN's region lies in packet memory. -/
def BulkReady (s : State) : Prop :=
  EpUsable s.cfg.botInEp s ∧ EpUsable s.cfg.botOutEp s ∧ s.cfg.botInEp.isIn = true ∧ s.cfg.botOutEp.isIn = false
    ∧ RegionFits s.cfg.botInEp s

/-- The bytes of the CSW of the current command (30_encoding R111). -/
def cswOf (b : Bot) (status : Byte) : List Byte :=
  [0x55, 0x53, 0x42, 0x53] ++ le32Bytes b.tag ++ le32Bytes (BitVec.ofNat 32 b.residue) ++ [status]

/-- send_csw(status) (42 R269): the CSW is in `csw_buf` and its first packet loaded. -/
def CswSent (status : Byte) (s t : State) : Prop :=
  t.fault = none ∧ t.bot = { s.bot with state := .status, cswBuf := t.bot.cswBuf }
    ∧ bufRead t .csw 0 13 = cswOf s.bot status ∧ WritePosted s.cfg.botInEp .csw 13 s t
    ∧ t = { s with eps := t.eps, hws := t.hws, bot := t.bot, pma := t.pma } ∧ OtherEpsKept [s.cfg.botInEp] s t

/-- A SCSI command has returned SendData with `out` as its response, moved the sense ring's tail to `tail`, and changed nothing
else (42 R272). -/
def ScsiReplied (out : List Byte) (tail : Fin 4) (s t : State) : Prop :=
  t = { s with scsi := { s.scsi with work := t.scsi.work, respLen := out.length, state := .sendData, senseTail := tail } }
    ∧ bufRead t .work 0 out.length = out ∧ (∀ i, out.length ≤ i → bufByte t .work i = bufByte s .work i)

/-- A SCSI command has failed with this sense entry (42 R262, R263): the entry is at the head, and nothing else changes. -/
def ScsiFailed (key asc : Byte) (s t : State) : Prop :=
  t = { s with scsi := { s.scsi with senseKey := t.scsi.senseKey, senseAsc := t.scsi.senseAsc, state := .error,
                                     senseHead := s.scsi.senseHead + 1 } }
    ∧ t.scsi.senseKey = s.scsi.senseKey.set s.scsi.senseHead.val key s.scsi.senseHead.isLt
    ∧ t.scsi.senseAsc = s.scsi.senseAsc.set s.scsi.senseHead.val asc s.scsi.senseHead.isLt

/-- The command in progress goes on with the bytes of the completed transfer off its residue (42 R270, R271). -/
def residueTaken (n : Nat) (s : State) : State := { s with bot := { s.bot with residue := s.bot.residue - n } }

/-- A push raises no fault: the ring is let wrap, or the push does not fill it (42 R263). -/
def PushAllowed (s : State) : Prop :=
  s.cfg.senseOverflow = .wrap ∨ s.scsi.senseHead + 1 ≠ s.scsi.senseTail

/-! ## Invariants -/

/-- Every byte space is in canonical form. -/
def MemoryCanonical (s : State) : Prop :=
  memWf s.pma = true ∧ memWf s.app = true ∧ memWf s.ctl.scratch = true ∧ memWf s.scsi.work = true
    ∧ memWf s.bot.cbwBuf = true ∧ memWf s.bot.cswBuf = true ∧ memWfOver (storageInit s.cfg) s.blocks = true

/-- The allocator stays within packet memory (10_state R27), and the state to restore on resume is none but Suspended's (R28). -/
def BoundsKept (s : State) : Prop :=
  s.cfg.pmaBase ≤ s.pmaNext ∧ s.pmaNext ≤ s.cfg.pmaSize ∧ s.ctl.savedState ≠ .suspended

/-- A class is active exactly where the device is Configured, or Suspended from Configured: the sentence 10_state R28 derives, which
41 R223's own pseudocode breaks in one case (assumption log 29). -/
def ClassActiveSound (s : State) : Prop :=
  s.fault = none →
    (s.ctl.classActive = true
      ↔ s.ctl.devState = .configured ∨ s.ctl.devState = .suspended ∧ s.ctl.savedState = .configured)

/-- The half of `ClassActiveSound` that no step breaks: a device Configured, or Suspended from Configured, has its class active
(10_state R28). -/
def ConfiguredHasClass (s : State) : Prop :=
  s.fault = none →
    s.ctl.devState = .configured ∨ s.ctl.devState = .suspended ∧ s.ctl.savedState = .configured → s.ctl.classActive = true

/-- The instruction may serve a SET_ADDRESS (41 R223) on a device Suspended from Configured, where R223's conditions let it through
(assumption log 29). -/
def MayReaddressSuspended (i : Instr) (s : State) : Prop :=
  s.ctl.devState = .suspended ∧ s.ctl.savedState = .configured
    ∧ ((∃ d v x l, i = .setAddress d v x l) ∨ (i = .evCtr ctlOut ∧ (s.hw ctlOut).setup = true))

/-- An active transfer is on an open endpoint, and an IN packet in flight is within its packet size and its transfer
(10_state R23 (3), (4)). -/
def TransfersSound (s : State) : Prop :=
  s.fault = none → ∀ a, (s.ep a).active = true →
    (s.ep a).isOpen = true ∧ (a.isIn = true → (s.ep a).inflight ≤ (s.ep a).mps ∧ (s.ep a).inflight ≤ (s.ep a).remaining)

/-- The packet-memory regions of an endpoint: offset and length (10_state R23). -/
def regionsOf (e : EpRec) : List (Nat × Nat) := (e.off0, e.mps) :: (if e.dbuf then [(e.off1, e.mps)] else [])

/-- No region of an open endpoint reaches outside packet memory or into another open endpoint's (10_state R23 (1), (2)). -/
def RegionsSound (s : State) : Prop :=
  s.fault = none → ∀ a, (s.ep a).isOpen = true → ∀ r ∈ regionsOf (s.ep a),
    s.cfg.pmaBase ≤ r.1 ∧ r.1 + r.2 ≤ s.pmaNext
      ∧ ∀ b, b ≠ a → (s.ep b).isOpen = true → ∀ q ∈ regionsOf (s.ep b), r.1 + r.2 ≤ q.1 ∨ q.1 + q.2 ≤ r.1

end Sys2Proof.Machine
end

