-- ==== Sys2Proof/Certificates/Slice0/Obligations.lean ====
section
/-!
DEFINITION. The statements for the provers. A completion says that exec answers a next state, what that state is, and what it leaves
unchanged.
-/

open Sys2Proof Sys2Proof.Machine

/-! ## Encodings -/

/-- Words written out from the spec's encodings, one or more of each family (30_encoding R101-R121; 95 section 0). -/
def Obligations.HandWrittenWordsDecode : Prop :=
  decode ⟨.op, [0x01, 0x81, 0x02, 0x40, 0x00, 0x02, 0x00]⟩ = .ok (.epOpen ⟨true, 1⟩ .bulk 64 .botIn)
  ∧ decode ⟨.op, [0x10, 0x06, 0, 0, 0, 0, 0, 0, 0, 0, 0, 0, 0, 0, 0x12, 0x00]⟩ = .ok (.ctlSend .deviceDesc 18)
  ∧ decode ⟨.op, [0x22, 0x05, 0x01, 0xAA, 0xBB]⟩ = .ok (.hostOut 5 ⟨false, 1⟩ [0xAA, 0xBB])
  ∧ decode ⟨.op, [0x31, 0xF1]⟩ = .ok (.evCtr ⟨true, 1⟩)
  ∧ decode ⟨.op, [0x00]⟩ = .ok .rstPowerOn
  ∧ decode ⟨.setup, [0x00, 0x05, 0x34, 0x12, 0x78, 0x56, 0xBC, 0x9A]⟩ = .ok (.setAddress false 0x1234 0x5678 0x9ABC)
  ∧ decode ⟨.setup, [0x80, 0x06, 0x01, 0x03, 0x09, 0x04, 0xFF, 0x00]⟩ = .ok (.getDescriptorString true 1 0x0409 255)
  ∧ decode ⟨.setup, [0x42, 0x01, 0, 0, 0x81, 0, 0, 0]⟩ = .ok (.endpointClassVendorReserved false 2 1 0 0x81 0)
  ∧ decode ⟨.classReq, [0x21, 0xFF, 0, 0, 0, 0, 0, 0]⟩ = .ok (.bulkOnlyMassStorageReset 0 0)
  ∧ decode ⟨.cbw, [0x55, 0x53, 0x42, 0x43, 0x0D, 0x0C, 0x0B, 0x0A, 0x00, 0x04, 0x00, 0x00, 0x80, 0x00, 0x0A]
      ++ [0x28, 0, 0, 0, 0, 0x0A, 0, 0, 2, 0, 0, 0, 0, 0, 0, 0]⟩
    = .ok (.cbw 0x0A0B0C0D 1024 0x80 10 #v[0x28, 0, 0, 0, 0, 0x0A, 0, 0, 2, 0, 0, 0, 0, 0, 0, 0])
  ∧ decode ⟨.cdb, [0x2A, 0, 0x12, 0x34, 0x56, 0x78, 0, 0x9A, 0xBC, 0, 0, 0, 0, 0, 0, 0]⟩ = .ok (.write10 0x12345678 0x9ABC)
  ∧ decode ⟨.cdb, [0x1D, 0, 0, 0, 0, 0, 0, 0, 0, 0, 0, 0, 0, 0, 0, 0]⟩ = .ok (.cdbUnsupported 0x1D)

/-- The decoder reads back every well-formed instruction from its encoding. -/
def Obligations.DecodeOfEncode : Prop := ∀ i : Instr, i.wf = true → decode (encode i) = .ok i

/-- Decoding a request, a class request or a received CBW is total, gives a well-formed instruction and loses no bit of it: encoding
gives the same bytes (30_encoding R101, R110, R116). -/
def Obligations.RequestDecodingKeepsEveryBit : Prop :=
  (∀ b : Vector Byte 8, (decodeRequest b).wf = true ∧ encode (decodeRequest b) = ⟨.setup, b.toList⟩)
  ∧ (∀ b : Vector Byte 8, (decodeClassReq b).wf = true ∧ encode (decodeClassReq b) = ⟨.classReq, b.toList⟩)
  ∧ (∀ bs : List Byte, (decodeCbw bs).wf = true ∧ encode (decodeCbw bs) = ⟨.cbw, bs⟩)

/-! ## The step -/

/-- Under a well-formed configuration a step takes the next word off the schedule and runs exactly the instruction it decodes to. Of the
words that are no instruction, a control request that has not eight bytes is rejected (41 R203), a call of the peripheral interface is
made (40 R177; that the schedule can hold one is assumption log 32), and the others are refused: the block handles no such format
(30_encoding R100). A configuration that is not well-formed refuses every step (00_scope R11); that one outside the value column of R6
is not well-formed is assumption log 28. -/
def Obligations.StepRunsDecodedInstruction : Prop :=
  (∀ (s : State) (w : OpWord) (rest : List OpWord) (i : Instr),
    configWf s.cfg = true → s.script = w :: rest → decode w = .ok i → step s = exec i { s with script := rest })
  ∧ (∀ (s : State) (w : OpWord) (rest : List OpWord),
    configWf s.cfg = true → s.script = w :: rest → w.fmt = .setup ∨ w.fmt = .classReq → w.bytes.length ≠ 8 → ControlOpen s →
    ∃ t, step s = .next t ∧ Rejected s.ctl { s with script := rest } t)
  ∧ (∀ (s : State) (rest : List OpWord), configWf s.cfg = true → s.fault = none →
    (s.script = ⟨.periph, [0x00]⟩ :: rest →
      ∃ t, step s = .next t ∧ (∀ a, t.hw a = ⟨.disabled, false, 0, false, false, false⟩)
        ∧ t = { s with script := rest, hws := t.hws, periph := ⟨s.periph.started, 0, false, false, false⟩ })
    ∧ (s.script = ⟨.periph, [0x01]⟩ :: rest → step s = .next { s with script := rest, periph := { s.periph with started := true } })
    ∧ (s.script = ⟨.periph, [0x02]⟩ :: rest → step s = .next { s with script := rest, periph := { s.periph with started := false } }))
  ∧ (∀ (s : State) (w : OpWord) (rest : List OpWord) (e : DecodeError),
    configWf s.cfg = true → s.script = w :: rest → decode w = .error e →
    w.fmt = .op ∨ w.fmt = .cdb ∨ (w.fmt = .periph ∧ w.bytes ∉ [[0x00], [0x01], [0x02]]) → step s = .refused (.undecodable e))
  ∧ (∀ s : State, configWf s.cfg = false → step s = .refused .configRefused)

/-- With an empty schedule the handler services a pending event (60_exceptions R335): the bus reset if one is pending, else some
pending event; with none pending nothing changes. -/
def Obligations.HandlerServicesPending : Prop :=
  ∀ s : State, configWf s.cfg = true → s.script = [] →
    (s.periph.pendReset = true → step s = exec .evReset s)
    ∧ (s.periph.pendReset = false → (∃ i, EventPending i s) →
        ∃ i t, EventPending i s ∧ (t = s ∨ t = { s with draws := s.draws + 1 }) ∧ step s = exec i t)
    ∧ ((∀ i, ¬ EventPending i s) → s.fault = none → step s = .next s)

/-- Once the sticky fault is set no agent has a step: every instruction stops with that fault, RST_POWER_ON included
(60_exceptions R330; the power-on's case is assumption log 8). -/
def Obligations.FaultedMachineHasNoStep : Prop :=
  ∀ (i : Instr) (s : State) (r : FaultReason), s.fault = some r → exec i s = .fault (.stopped r)

/-! ## The allocator and the endpoint operations (40_endpoint_engine R150-R162) -/

/-- PMA_ALLOC (R151): the region at `pma_next` is returned and nothing else changes; an allocation past PMA_SIZE faults and hands
out nothing. -/
def Obligations.PmaAllocCompletes : Prop :=
  ∀ (s : State) (size : Nat), s.fault = none →
    (s.pmaNext + size ≤ s.cfg.pmaSize →
      exec (.pmaAlloc size) s = .next { s with pmaNext := s.pmaNext + size, ret := .offset s.pmaNext })
    ∧ (s.cfg.pmaSize < s.pmaNext + size → exec (.pmaAlloc size) s = .next { s with fault := some .pmaOverflow })

/-- EP_OPEN (R152): the record and the status of the endpoint, its region or regions from `pma_next` on. -/
def Obligations.EpOpenCompletes : Prop :=
  ∀ (s : State) (ep : EpAddr) (ty : EpType) (mps : BitVec 16) (cb : CallbackId),
    s.fault = none → ep.num.toNat < s.cfg.nEp → 1 ≤ mps.toNat → mps.toNat ≤ 1023 →
    s.pmaNext + (if ep ∈ s.cfg.dbuf then 2 * mps.toNat else mps.toNat) ≤ s.cfg.pmaSize →
    ∃ t, exec (.epOpen ep ty mps cb) s = .next t ∧ t.fault = none
      ∧ t.ep ep = { s.ep ep with
          isOpen := true, type := ty, mps := mps.toNat, callback := some cb, stalled := false, active := false,
          remaining := 0, transferred := 0, inflight := 0, dbuf := decide (ep ∈ s.cfg.dbuf), off0 := s.pmaNext,
          off1 := if ep ∈ s.cfg.dbuf then s.pmaNext + mps.toNat else (s.ep ep).off1 }
      ∧ t.hw ep = ⟨if ep.isIn = false then .valid else if ty = .isochronous then .disabled else .nak,
          false, 0, false, false, false⟩
      ∧ t.pmaNext = s.pmaNext + (if ep ∈ s.cfg.dbuf then 2 * mps.toNat else mps.toNat)
      ∧ t = { s with eps := t.eps, hws := t.hws, pmaNext := t.pmaNext }
      ∧ OtherEpsKept [ep] s t ∧ BytesKept s t

/-- Where the engine's operations fault (R150, R152, R338; 41 R206, R207): the first failing check decides, and the fault is all that
changes. An allocation that fails inside EP_OPEN leaves the writes made before it (R330): the first leaves `dbuf` written, the second,
of a double-buffered endpoint, also the first region handed out; the endpoint stays as open as it was. -/
def Obligations.EngineOperationsFault : Prop :=
  (∀ (s : State) (ep : EpAddr) (ty : EpType) (mps : BitVec 16) (cb : CallbackId), s.fault = none →
    (s.cfg.nEp ≤ ep.num.toNat ∨ mps = 0 ∨ 1023 < mps.toNat →
      exec (.epOpen ep ty mps cb) s = .next { s with fault := some .badOperand })
    ∧ (ep.num.toNat < s.cfg.nEp → 1 ≤ mps.toNat → mps.toNat ≤ 1023 →
        (s.cfg.pmaSize < s.pmaNext + mps.toNat →
          ∃ t, exec (.epOpen ep ty mps cb) s = .next t
            ∧ t.ep ep = { s.ep ep with dbuf := decide (ep ∈ s.cfg.dbuf) }
            ∧ t = { s with eps := t.eps, fault := some .pmaOverflow } ∧ OtherEpsKept [ep] s t)
        ∧ (ep ∈ s.cfg.dbuf → s.pmaNext + mps.toNat ≤ s.cfg.pmaSize → s.cfg.pmaSize < s.pmaNext + 2 * mps.toNat →
          ∃ t, exec (.epOpen ep ty mps cb) s = .next t
            ∧ t.ep ep = { s.ep ep with dbuf := true, off0 := s.pmaNext }
            ∧ t = { s with eps := t.eps, pmaNext := s.pmaNext + mps.toNat, fault := some .pmaOverflow }
            ∧ OtherEpsKept [ep] s t)))
  ∧ (∀ (s : State) (ep : EpAddr) (buf : BufRef) (len : BitVec 32) (i : Instr), s.fault = none →
      i ∈ [.epClose ep, .epRead ep buf len, .epWrite ep buf len, .epWriteZlp ep, .epStall ep, .epDestall ep] →
      (s.cfg.nEp ≤ ep.num.toNat → exec i s = .next { s with fault := some .badOperand })
      ∧ (ep.num.toNat < s.cfg.nEp → (s.ep ep).isOpen = false → exec i s = .next { s with fault := some .epNotOpen }))
  ∧ (∀ (s : State) (ep : EpAddr) (buf : BufRef) (len : BitVec 32), EpUsable ep s →
      (ep.isIn = true → exec (.epRead ep buf len) s = .next { s with fault := some .badOperand })
      ∧ (ep.isIn = false → exec (.epWrite ep buf len) s = .next { s with fault := some .badOperand }
          ∧ exec (.epWriteZlp ep) s = .next { s with fault := some .badOperand }))
  ∧ (∀ (s : State) (buf : BufRef) (len : BitVec 16), s.fault = none → s.ctl.ctrlState ≠ .setup →
      exec (.ctlSend buf len) s = .next { s with fault := some .badOperand }
      ∧ exec (.ctlReceive buf len) s = .next { s with fault := some .badOperand })

/-- EP_CLOSE (R153): the transfer is abandoned, the region is not reclaimed. -/
def Obligations.EpCloseCompletes : Prop :=
  ∀ (s : State) (ep : EpAddr), EpUsable ep s →
    ∃ t, exec (.epClose ep) s = .next t
      ∧ t.ep ep = { s.ep ep with isOpen := false, stalled := false, active := false }
      ∧ t.hw ep = { s.hw ep with stat := .disabled, ctr := false, setup := false }
      ∧ OnlyEps [ep] s t

/-- EP_READ (R154) on an open OUT endpoint, into a buffer that has `len` bytes to write (20_memory R72). -/
def Obligations.EpReadCompletes : Prop :=
  ∀ (s : State) (ep : EpAddr) (buf : BufRef) (len : BitVec 32),
    EpUsable ep s → ep.isIn = false → writeFits s.cfg buf len.toNat = true →
    ∃ t, exec (.epRead ep buf len) s = .next t ∧ ReadPosted ep buf len.toNat s t ∧ OnlyEps [ep] s t

/-- EP_WRITE and EP_WRITE_ZLP (R155, R156, R161, R162) on an open IN endpoint whose region lies in packet memory, from a buffer that
has `len` bytes: the first packet's bytes are in its region and no other byte of any space changes. -/
def Obligations.EpWriteCompletes : Prop :=
  ∀ (s : State) (ep : EpAddr) (buf : BufRef) (len : BitVec 32),
    EpUsable ep s → ep.isIn = true → RegionFits ep s →
    (readFits s.cfg buf len.toNat = true →
      ∃ t, exec (.epWrite ep buf len) s = .next t ∧ WritePosted ep buf len.toNat s t
        ∧ t = { s with eps := t.eps, hws := t.hws, pma := t.pma } ∧ OtherEpsKept [ep] s t
        ∧ (∀ b i, bufByte t b i = bufByte s b i))
    ∧ (∃ t, exec (.epWriteZlp ep) s = .next t ∧ WritePosted ep .none 0 s t
        ∧ t = { s with eps := t.eps, hws := t.hws, pma := t.pma } ∧ OtherEpsKept [ep] s t
        ∧ BytesKept s t)

/-- EP_STALL and EP_DESTALL (R157, R158). -/
def Obligations.EpStallAndDestallComplete : Prop :=
  ∀ (s : State) (ep : EpAddr), EpUsable ep s →
    (∃ t, exec (.epStall ep) s = .next t ∧ StallSet ep s t ∧ OnlyEps [ep] s t)
    ∧ (∃ t, exec (.epDestall ep) s = .next t
        ∧ t.ep ep = { s.ep ep with stalled := false }
        ∧ t.hw ep = { s.hw ep with
            dtog := false,
            stat := if (s.ep ep).stalled = true then (if (s.ep ep).active = true then .valid else .nak) else (s.hw ep).stat }
        ∧ OnlyEps [ep] s t)

/-- EP_IS_OPEN and EP_IS_STALLED (R159, R160): pure queries, false for a number that does not exist. -/
def Obligations.QueriesComplete : Prop :=
  ∀ (s : State) (ep : EpAddr), s.fault = none →
    exec (.epIsOpen ep) s = .next { s with ret := .bool (decide (ep.num.toNat < s.cfg.nEp) && (s.ep ep).isOpen) }
    ∧ exec (.epIsStalled ep) s = .next { s with ret := .bool (decide (ep.num.toNat < s.cfg.nEp) && (s.ep ep).stalled) }

/-! ## The control primitives (41_control_transfer R206, R207) -/

/-- CTL_SEND while a request is decoded (R206): the data stage, cut to wLength, or the status where nothing is to be sent. -/
def Obligations.CtlSendCompletes : Prop :=
  ∀ (s : State) (buf : BufRef) (len : BitVec 16),
    ControlReady s → s.ctl.ctrlState = .setup → readFits s.cfg buf (min len.toNat s.ctl.ctrlLen) = true →
    ∃ t, exec (.ctlSend buf len) s = .next t ∧ t.ctl.scratch = s.ctl.scratch
      ∧ (min len.toNat s.ctl.ctrlLen = 0 → StatusSent s.ctl s t)
      ∧ (0 < min len.toNat s.ctl.ctrlLen → DataSent buf (bufRead s buf 0 (min len.toNat s.ctl.ctrlLen)) s.ctl s t)

/-- CTL_RECEIVE while a request is decoded (R207): a read of the data stage, cut to wLength, or the status. -/
def Obligations.CtlReceiveCompletes : Prop :=
  ∀ (s : State) (buf : BufRef) (len : BitVec 16),
    ControlReady s → s.ctl.ctrlState = .setup → writeFits s.cfg buf (min len.toNat s.ctl.ctrlLen) = true →
    ∃ t, exec (.ctlReceive buf len) s = .next t
      ∧ (min len.toNat s.ctl.ctrlLen = 0 → StatusSent s.ctl s t)
      ∧ (0 < min len.toNat s.ctl.ctrlLen →
          ReadPosted ctlOut buf (min len.toNat s.ctl.ctrlLen) s t
          ∧ t.ctl = { s.ctl with ctrlState := .dataOut }
          ∧ OnlyEps [ctlOut] { s with ctl := t.ctl } t)

/-! ## Host transactions (40_endpoint_engine R170-R176) -/

/-- HOST_BUS_RESET (R170): the peripheral disables every endpoint and raises the reset; records and memories stay. HOST_SUSPEND and
HOST_RESUME (R174, R175): only a pending flag changes. A second HOST_SUSPEND before the first is serviced changes nothing: R174's guard
bars its effect, and it is absorbed (60 R334; that the schedule goes on is assumption log 35). -/
def Obligations.HostBusSignalsComplete : Prop :=
  ∀ s : State, s.fault = none → s.periph.started = true →
    (∃ t, exec .hostBusReset s = .next t
      ∧ t.periph = ⟨true, 0, true, false, false⟩
      ∧ (∀ a, t.hw a = { s.hw a with stat := .disabled, ctr := false, setup := false })
      ∧ t = { s with periph := t.periph, hws := t.hws, lastOut := .none })
    ∧ (s.ctl.devState ≠ .suspended → s.periph.pendSuspend = false →
        exec .hostSuspend s = .next { s with periph := { s.periph with pendSuspend := true }, lastOut := .none })
    ∧ (s.ctl.devState ≠ .suspended → s.periph.pendSuspend = true → exec .hostSuspend s = .next s)
    ∧ (s.periph.pendSuspend = true →
        exec .hostResume s = .next { s with periph := { s.periph with pendSuspend := false }, lastOut := .none })
    ∧ (s.periph.pendSuspend = false → s.ctl.devState = .suspended →
        exec .hostResume s = .next { s with periph := { s.periph with pendResume := true }, lastOut := .none })

/-- HOST_SETUP (R171, R176): accepted whatever the control OUT handshake is, once it is not disabled; else unanswered, also where the
peripheral is stopped (assumption log 22) and also where the payload is longer than EP0_MPS (assumption log 21). -/
def Obligations.HostSetupCompletes : Prop :=
  ∀ (s : State) (addr : BitVec 7) (bytes : List Byte), s.fault = none →
    (s.periph.started = true → s.ctl.devState ≠ .suspended → addr = s.periph.hwAddress →
      (s.hw ctlOut).stat ≠ .disabled → bytes.length ≤ s.cfg.ep0Mps → (s.ep ctlOut).off0 + bytes.length ≤ s.cfg.pmaSize →
      ∃ t, exec (.hostSetup addr bytes) s = .next t
        ∧ (∀ i (h : i < bytes.length), pmaByte t ((s.ep ctlOut).off0 + i) = bytes[i])
        ∧ PmaKeptOutside (s.ep ctlOut).off0 bytes.length s t
        ∧ t.hw ctlOut = { s.hw ctlOut with count := bytes.length, setup := true, ctr := true, stat := .nak, dtog := true }
        ∧ t.hw ctlIn = { s.hw ctlIn with stat := .nak, dtog := true }
        ∧ t = { s with hws := t.hws, pma := t.pma, lastOut := .ack } ∧ OtherEpsKept [ctlOut, ctlIn] s t)
    ∧ (s.periph.started = false
        ∨ s.ctl.devState ≠ .suspended ∧ (addr ≠ s.periph.hwAddress ∨ (s.hw ctlOut).stat = .disabled) →
      exec (.hostSetup addr bytes) s = .next { s with lastOut := .none })

/-- HOST_OUT (R172, R176): the four answers by endpoint status; an accepted packet's bytes are in the endpoint's region and nothing
else of memory changes. NONE, STALL and NAK answer a payload of any length (assumption log 21); a stopped peripheral does not answer
(assumption log 22). -/
def Obligations.HostOutCompletes : Prop :=
  ∀ (s : State) (addr : BitVec 7) (ep : EpAddr) (bytes : List Byte),
    s.fault = none → ep.isIn = false →
    (s.periph.started = false
        ∨ s.ctl.devState ≠ .suspended
          ∧ (addr ≠ s.periph.hwAddress ∨ s.cfg.nEp ≤ ep.num.toNat ∨ (s.hw ep).stat = .disabled) →
      exec (.hostOut addr ep bytes) s = .next { s with lastOut := .none })
    ∧ (s.periph.started = true → s.ctl.devState ≠ .suspended → addr = s.periph.hwAddress → ep.num.toNat < s.cfg.nEp →
        ((s.hw ep).stat = .stall → exec (.hostOut addr ep bytes) s = .next { s with lastOut := .stall })
        ∧ ((s.hw ep).stat = .nak ∨ (s.hw ep).stat = .valid ∧ (s.hw ep).ctr = true →
            exec (.hostOut addr ep bytes) s = .next { s with lastOut := .nak })
        ∧ ((s.hw ep).stat = .valid → (s.hw ep).ctr = false → bytes.length ≤ (s.ep ep).mps →
            inRegion ep s + bytes.length ≤ s.cfg.pmaSize →
            ∃ t, exec (.hostOut addr ep bytes) s = .next t
              ∧ (∀ i (h : i < bytes.length), pmaByte t (inRegion ep s + i) = bytes[i])
              ∧ PmaKeptOutside (inRegion ep s) bytes.length s t
              ∧ t.hw ep = { s.hw ep with
                  count := bytes.length, ctr := true, stat := .nak,
                  dtog := if (s.ep ep).type = .isochronous then (s.hw ep).dtog else !(s.hw ep).dtog,
                  bufSel := if (s.ep ep).dbuf = true then !(s.hw ep).bufSel else (s.hw ep).bufSel }
              ∧ t = { s with hws := t.hws, pma := t.pma, lastOut := .ack } ∧ OtherEpsKept [ep] s t))

/-- HOST_IN (R173, R176): the four answers by endpoint status; a loaded packet is sent with the endpoint's toggle, and nothing of
memory changes. A stopped peripheral does not answer (assumption log 22). -/
def Obligations.HostInCompletes : Prop :=
  ∀ (s : State) (addr : BitVec 7) (ep : EpAddr),
    s.fault = none → ep.isIn = true →
    (s.periph.started = false
        ∨ s.ctl.devState ≠ .suspended
          ∧ (addr ≠ s.periph.hwAddress ∨ s.cfg.nEp ≤ ep.num.toNat ∨ (s.hw ep).stat = .disabled) →
      exec (.hostIn addr ep) s = .next { s with lastOut := .none })
    ∧ (s.periph.started = true → s.ctl.devState ≠ .suspended → addr = s.periph.hwAddress → ep.num.toNat < s.cfg.nEp →
        ((s.hw ep).stat = .stall → exec (.hostIn addr ep) s = .next { s with lastOut := .stall })
        ∧ ((s.hw ep).stat = .nak ∨ (s.hw ep).stat = .valid ∧ (s.hw ep).ctr = true →
            exec (.hostIn addr ep) s = .next { s with lastOut := .nak })
        ∧ ((s.hw ep).stat = .valid → (s.hw ep).ctr = false → inRegion ep s + (s.hw ep).count ≤ s.cfg.pmaSize →
            ∃ t, exec (.hostIn addr ep) s = .next t
              ∧ t.lastOut = .data (s.hw ep).dtog (pmaRead s (inRegion ep s) (s.hw ep).count)
              ∧ t.hw ep = { s.hw ep with
                  ctr := true, stat := .nak,
                  dtog := if (s.ep ep).type = .isochronous then (s.hw ep).dtog else !(s.hw ep).dtog,
                  bufSel := if (s.ep ep).dbuf = true then !(s.hw ep).bufSel else (s.hw ep).bufSel }
              ∧ t = { s with hws := t.hws, lastOut := t.lastOut } ∧ OtherEpsKept [ep] s t))

/-- Where an agent has no step (R170-R175; 60 R335, R336; D20): the guard that is false is named. -/
def Obligations.FalseGuardsHaveNoStep : Prop :=
  ∀ s : State, s.fault = none →
    (s.periph.started = false →
      exec .hostBusReset s = .fault (.noStep .notStarted) ∧ exec .hostSuspend s = .fault (.noStep .notStarted)
        ∧ exec .hostResume s = .fault (.noStep .notStarted))
    ∧ (s.periph.started = true → s.ctl.devState = .suspended →
        exec .hostSuspend s = .fault (.noStep .suspended)
        ∧ (∀ addr bytes, exec (.hostSetup addr bytes) s = .fault (.noStep .suspended))
        ∧ (∀ addr ep bytes, ep.isIn = false → exec (.hostOut addr ep bytes) s = .fault (.noStep .suspended))
        ∧ (∀ addr ep, ep.isIn = true → exec (.hostIn addr ep) s = .fault (.noStep .suspended)))
    ∧ (s.periph.started = true → s.ctl.devState ≠ .suspended → s.periph.pendSuspend = false →
        exec .hostResume s = .fault (.noStep .notSuspended))
    ∧ (∀ i, i = .evReset ∨ i = .evSuspend ∨ i = .evResume ∨ (∃ a, i = .evCtr a) →
        (¬ EventPending i s → exec i s = .fault (.noStep .notPending))
        ∧ (EventPending i s → s.periph.pendReset = true → i ≠ .evReset → exec i s = .fault (.noStep .resetFirst)))

/-! ## Events (60_exceptions R336; 41 R202-R213, R243, R244; 40 R163, R164; 70 R371) -/

/-- EV_SUSPEND and EV_RESUME (41 R243, R244). -/
def Obligations.SuspendAndResumeServiced : Prop :=
  ∀ s : State, s.fault = none → s.periph.pendReset = false →
    (s.periph.pendSuspend = true →
      exec .evSuspend s = .next { s with
        periph := { s.periph with pendSuspend := false },
        ctl := if s.ctl.devState = .suspended then s.ctl
               else { s.ctl with savedState := s.ctl.devState, devState := .suspended } })
    ∧ (s.periph.pendResume = true →
      exec .evResume s = .next { s with
        periph := { s.periph with pendResume := false },
        ctl := if s.ctl.devState = .suspended then { s.ctl with devState := s.ctl.savedState } else s.ctl })

/-- EV_RESET (70 R371), with no class active, with the mass-storage class on its open bulk pair, or with an OPAQUE class, whose deinit
runs first as the run given (assumption log 13): every endpoint is closed, the control pair opened afresh, the session and the
allocator rewound. Where 10_state R41's table gives a value that R371's pseudocode does not write (the statuses of the other endpoints,
the pending suspend and resume, the sequencer), the table is followed (assumption log 34). -/
def Obligations.BusResetServiced : Prop :=
  ∀ s : State, s.fault = none → configWf s.cfg = true → s.periph.pendReset = true →
    ((s.ctl.classActive = true → s.cfg.cls = .msc ∧ EpUsable s.cfg.botInEp s ∧ EpUsable s.cfg.botOutEp s) →
      ∃ t, exec .evReset s = .next t ∧ BusResetLeaves s t)
    ∧ (∀ (hook : Bool) (run : ClassRun) (rest : List ClassRun),
        s.ctl.classActive = true → s.cfg.cls = .other hook → s.classRuns = run :: rest →
        ∃ u t, u = classActs run.acts { s with
              periph := { s.periph with pendReset := false }, classRuns := rest, calls := .deinit :: s.calls }
          ∧ exec .evReset s = .next t
          ∧ (u.fault ≠ none → t = u) ∧ (u.fault = none → BusResetLeaves u t))

/-- EV_CTR of a pending SETUP of eight bytes (41 R202, R204): the control pipe is cleared, then exactly the decoded request runs. -/
def Obligations.SetupServiceRunsTheRequest : Prop :=
  ∀ s : State, s.fault = none → s.periph.pendReset = false → 0 < s.cfg.nEp →
    (s.hw ctlOut).ctr = true → (s.hw ctlOut).setup = true → (s.hw ctlOut).count = 8 →
    (s.ep ctlOut).off0 + 8 ≤ s.cfg.pmaSize →
    ∃ u b, exec (.evCtr ctlOut) s = exec (decodeRequest b) u
      ∧ b.toList = pmaRead s (s.ep ctlOut).off0 8
      ∧ u.ctl = { s.ctl with zlpPending := false }
      ∧ u.ep ctlOut = { s.ep ctlOut with stalled := false, active := false }
      ∧ u.ep ctlIn = { s.ep ctlIn with stalled := false, active := false }
      ∧ u.hw ctlOut = { s.hw ctlOut with ctr := false, setup := false, stat := .nak }
      ∧ u.hw ctlIn = { s.hw ctlIn with ctr := false, stat := .nak }
      ∧ OnlyEps [ctlIn, ctlOut] { s with ctl := u.ctl } u

/-- EV_CTR of a pending SETUP that has not eight bytes (41 R203): rejected, the recorded request kept. -/
def Obligations.SetupOfAnotherLengthIsRejected : Prop :=
  ∀ s : State, ControlOpen s → s.periph.pendReset = false →
    (s.hw ctlOut).ctr = true → (s.hw ctlOut).setup = true → (s.hw ctlOut).count ≠ 8 →
    ∃ t, exec (.evCtr ctlOut) s = .next t
      ∧ t.ctl = { s.ctl with zlpPending := false, ctrlState := .stall }
      ∧ t.ep ctlOut = { s.ep ctlOut with stalled := true, active := false }
      ∧ t.ep ctlIn = { s.ep ctlIn with stalled := true, active := false }
      ∧ t.hw ctlOut = { s.hw ctlOut with ctr := false, setup := false, stat := .stall }
      ∧ t.hw ctlIn = { s.hw ctlIn with ctr := false, stat := .stall }
      ∧ OnlyEps [ctlIn, ctlOut] { s with ctl := t.ctl } t

/-- EV_CTR of an IN packet in the middle of a transfer (40 R163): the next packet is loaded from where the transfer stands. With no
transfer active the completion is only consumed (D72). -/
def Obligations.InCompletionLoadsNextPacket : Prop :=
  ∀ (s : State) (ep : EpAddr), PacketPending ep s → ep.isIn = true →
    ((s.ep ep).active = true → (s.ep ep).inflight < (s.ep ep).remaining → RegionFits ep s →
      ∃ t, exec (.evCtr ep) s = .next t
        ∧ (let done := (s.ep ep).transferred + (s.ep ep).inflight
           let left := (s.ep ep).remaining - (s.ep ep).inflight
           let n := min left (s.ep ep).mps
           t.ep ep = { s.ep ep with transferred := done, remaining := left, inflight := n }
           ∧ t.hw ep = { s.hw ep with ctr := false, count := n, stat := armedStat ep s }
           ∧ (∀ i, i < n → pmaByte t (inRegion ep s + i) = bufByte s (s.ep ep).buf (done + i))
           ∧ PmaKeptOutside (inRegion ep s) n s t)
        ∧ t = { s with eps := t.eps, hws := t.hws, pma := t.pma } ∧ OtherEpsKept [ep] s t)
    ∧ ((s.ep ep).active = false →
      ∃ t, exec (.evCtr ep) s = .next t ∧ t.hw ep = { s.hw ep with ctr := false } ∧ t.ep ep = s.ep ep ∧ OnlyEps [ep] s t)

/-- EV_CTR of a full OUT packet in the middle of a transfer (40 R164): its bytes are in the buffer where the transfer stands, and the
endpoint is armed again. With no transfer active the packet is dropped (D14). -/
def Obligations.OutCompletionStoresPacket : Prop :=
  ∀ (s : State) (ep : EpAddr), PacketPending ep s → ep.isIn = false →
    ((s.ep ep).active = true → (s.hw ep).count < (s.ep ep).remaining → (s.ep ep).mps ≤ (s.hw ep).count →
      outRegion ep s + (s.hw ep).count ≤ s.cfg.pmaSize →
      writeFits s.cfg (s.ep ep).buf ((s.ep ep).transferred + (s.hw ep).count) = true →
      ∃ t, exec (.evCtr ep) s = .next t
        ∧ t.ep ep = { s.ep ep with transferred := (s.ep ep).transferred + (s.hw ep).count,
                                   remaining := (s.ep ep).remaining - (s.hw ep).count }
        ∧ t.hw ep = { s.hw ep with ctr := false, stat := armedStat ep s }
        ∧ (∀ i, i < (s.hw ep).count →
            bufByte t (s.ep ep).buf ((s.ep ep).transferred + i) = pmaByte s (outRegion ep s + i))
        ∧ BuffersKeptOutside (s.ep ep).buf (s.ep ep).transferred (s.hw ep).count s t
        ∧ (∀ a, pmaByte t a = pmaByte s a) ∧ (∀ a, storageByte t a = storageByte s a)
        ∧ t = { s with eps := t.eps, hws := t.hws, app := t.app, ctl := { s.ctl with scratch := t.ctl.scratch },
                       scsi := { s.scsi with work := t.scsi.work },
                       bot := { s.bot with cbwBuf := t.bot.cbwBuf, cswBuf := t.bot.cswBuf } }
        ∧ OtherEpsKept [ep] s t)
    ∧ ((s.ep ep).active = false →
      ∃ t, exec (.evCtr ep) s = .next t ∧ t.hw ep = { s.hw ep with ctr := false } ∧ t.ep ep = s.ep ep ∧ OnlyEps [ep] s t)

/-- EV_CTR of the last packet of a control IN transfer (41 R209, R213): a stored address is applied, then the control sub-state
advances; in DataIn an owed ZLP is sent first. -/
def Obligations.ControlInCompletionAdvances : Prop :=
  ∀ s : State, ControlReady s → LastInPending ctlIn s → (s.ep ctlIn).callback = some .ctrlIn →
    ∃ t, exec (.evCtr ctlIn) s = .next t
      ∧ t.periph = { s.periph with hwAddress := s.ctl.pendingAddr.getD s.periph.hwAddress }
      ∧ (let c := { s.ctl with address := s.ctl.pendingAddr.getD s.ctl.address, pendingAddr := none }
         (s.ctl.ctrlState = .dataIn → s.ctl.zlpPending = true →
            t.ctl = { c with zlpPending := false }
            ∧ t.ep ctlIn = { inDone (s.ep ctlIn) with buf := .none, remaining := 0, transferred := 0, active := true, inflight := 0 }
            ∧ t.hw ctlIn = { s.hw ctlIn with ctr := false, count := 0, stat := armedStat ctlIn s })
         ∧ (¬ (s.ctl.ctrlState = .dataIn ∧ s.ctl.zlpPending = true) →
            t.ctl = { c with ctrlState := if s.ctl.ctrlState = .dataIn then .statusOut
                                          else if s.ctl.ctrlState = .statusIn then .idle else s.ctl.ctrlState }
            ∧ t.ep ctlIn = inDone (s.ep ctlIn)
            ∧ t.hw ctlIn = { s.hw ctlIn with ctr := false }))
      ∧ t = { s with eps := t.eps, hws := t.hws, ctl := t.ctl, periph := t.periph, pma := t.pma }
      ∧ OtherEpsKept [ctlIn] s t ∧ BytesKept s t

/-- EV_CTR of the last packet of a control OUT transfer (41 R210). The host's status OUT: what is left of the IN stage is withdrawn and
the pipe is Idle. The end of an OUT data stage (R239): a class that has the data-ready hook runs it, as the run given (assumption log
13), and then the status IN is loaded. -/
def Obligations.ControlOutCompletionAdvances : Prop :=
  ∀ s : State, LastOutPending ctlOut s → (s.ep ctlOut).callback = some .ctrlOut →
    ((s.ep ctlOut).buf = .none → s.ctl.ctrlState = .dataIn ∨ s.ctl.ctrlState = .statusOut →
      ∃ t, exec (.evCtr ctlOut) s = .next t
        ∧ t.ctl = { s.ctl with ctrlState := .idle, zlpPending := false }
        ∧ t.ep ctlOut = outDone ctlOut s ∧ t.hw ctlOut = { s.hw ctlOut with ctr := false }
        ∧ t.ep ctlIn = { s.ep ctlIn with active := false }
        ∧ t.hw ctlIn = { s.hw ctlIn with
            ctr := false, stat := if (s.ep ctlIn).stalled = true then (s.hw ctlIn).stat else .nak }
        ∧ OnlyEps [ctlIn, ctlOut] { s with ctl := t.ctl } t)
    ∧ (s.ctl.ctrlState = .dataOut →
        (ControlReady s → s.cfg.cls = .msc ∨ s.cfg.cls = .other false →
          ∃ w t, OutDelivered ctlOut s w ∧ exec (.evCtr ctlOut) s = .next t ∧ StatusSent w.ctl w t)
        ∧ (∀ (run : ClassRun) (rest : List ClassRun), s.cfg.cls = .other true → s.classRuns = run :: rest →
            ∃ w u t, OutDelivered ctlOut s w
              ∧ u = classActs run.acts { w with classRuns := rest, calls := .dataReady :: s.calls }
              ∧ exec (.evCtr ctlOut) s = .next t
              ∧ (u.fault ≠ none → t = u) ∧ (ControlReady u → StatusSent u.ctl u t)))

/-! ## Resets (10_state R41, 70 R371, R372) -/

/-- RST_POWER_ON (70 R372) on a running machine: every field is at its power-on value. Of these values the model chose: the sense
slots, unspecified in 10_state R41 (0, assumption log 10), `buf` and `pma_off[1]` of the control pair (none and 0, log 33), and the
model's own `lastOut`, `ret` and `calls` (log 23). The storage, the class layer's memory and the inputs still to come are not the
block's and stay (log 31). That a power-on needs a running machine is log 8. -/
def Obligations.PowerOnCompletes : Prop :=
  ∀ s : State, s.fault = none → configWf s.cfg = true →
    exec .rstPowerOn s = .next { State.powerOn s.cfg with
      blocks := s.blocks, app := s.app, script := s.script, answers := s.answers, classRuns := s.classRuns,
      draws := s.draws, epoch := s.epoch + 1 }

/-- The values of 10_state R41 after power-on, field by field; those it leaves unspecified are not here. Of the control pair's records R41
does not list `buf` and `pma_off[1]`: none and 0 are the model's choice (assumption log 33). -/
def Obligations.PowerOnValues : Prop :=
  ∀ c : Config,
    let s := State.powerOn c
    s.fault = none ∧ s.pmaNext = c.pmaBase + 2 * c.ep0Mps
    ∧ s.periph = ⟨true, 0, false, false, false⟩
    ∧ s.ep ctlOut = ⟨true, .control, c.ep0Mps, false, c.pmaBase, 0, false, .none, 0, 0, some .ctrlOut, false, 0⟩
    ∧ s.ep ctlIn = ⟨true, .control, c.ep0Mps, false, c.pmaBase + c.ep0Mps, 0, false, .none, 0, 0, some .ctrlIn, false, 0⟩
    ∧ (∀ a, a ≠ ctlOut → a ≠ ctlIn → s.ep a = ⟨false, .control, 0, false, 0, 0, false, .none, 0, 0, none, false, 0⟩
        ∧ s.hw a = ⟨.disabled, false, 0, false, false, false⟩)
    ∧ s.hw ctlOut = ⟨.valid, false, 0, false, false, false⟩ ∧ s.hw ctlIn = ⟨.nak, false, 0, false, false, false⟩
    ∧ s.ctl.devState = .default ∧ s.ctl.savedState = .default ∧ s.ctl.address = 0 ∧ s.ctl.pendingAddr = none
    ∧ s.ctl.config = 0 ∧ s.ctl.remoteWakeup = false ∧ s.ctl.ctrlState = .idle ∧ s.ctl.ctrlLen = 0
    ∧ s.ctl.zlpPending = false ∧ s.ctl.req = #v[0, 0, 0, 0, 0, 0, 0, 0] ∧ s.ctl.classActive = false
    ∧ s.scsi.medium = false ∧ s.scsi.totalBlocks = 0 ∧ s.scsi.writeCapable = false ∧ s.scsi.blkAddr = 0
    ∧ s.scsi.blkLen = 0 ∧ s.scsi.respLen = 0 ∧ s.scsi.state = .ok ∧ s.scsi.senseHead = 0 ∧ s.scsi.senseTail = 0
    ∧ s.bot.state = .idle ∧ s.bot.tag = 0 ∧ s.bot.dataLength = 0 ∧ s.bot.flags = 0 ∧ s.bot.residue = 0 ∧ s.bot.zlp = false
    ∧ (∀ a, storageByte s a = storageInit c a)
    ∧ s.cfg = c

/-! ## Requests to the device and to an endpoint (41_control_transfer R205, R211, R220-R236) -/

/-- The request rows that are rejected whatever their fields and the state. -/
def alwaysRejected : Instr → Bool
  | .getDescriptorDeviceQualifier .. | .getDescriptorOtherSpeedConfiguration .. | .getDescriptorOtherType ..
  | .setDescriptor .. | .getInterfaceDevice .. | .setInterfaceDevice .. | .synchFrameDevice ..
  | .deviceStandardReserved .. | .deviceClassVendorReserved .. | .synchFrameEndpoint .. | .endpointStandardOther ..
  | .endpointClassVendorReserved .. | .setupOtherRecipient .. => true
  | _ => false

/-- Requests with no meaning of their own are rejected (R205, R211, R224, R228, R231, R236): both control directions stall and, beyond
the recorded request, nothing else changes. -/
def Obligations.RejectedRequestsStall : Prop :=
  ∀ (s : State) (i : Instr), ControlOpen s → alwaysRejected i = true →
    ∃ t, exec i s = .next t ∧ Rejected (recorded i s.ctl) s t

/-- CLEAR_FEATURE and SET_FEATURE to the device (R221, R222): selector 1 writes the remote-wakeup flag, every selector is
acknowledged. -/
def Obligations.DeviceFeaturesComplete : Prop :=
  ∀ (s : State) (dir : Bool) (v i l : BitVec 16), ControlReady s →
    (∃ t, exec (.clearFeatureDevice dir v i l) s = .next t
      ∧ StatusSent { recorded (.clearFeatureDevice dir v i l) s.ctl with
          remoteWakeup := if v = 1 then false else s.ctl.remoteWakeup } s t)
    ∧ (∃ t, exec (.setFeatureDevice dir v i l) s = .next t
      ∧ StatusSent { recorded (.setFeatureDevice dir v i l) s.ctl with
          remoteWakeup := if v = 1 then true else s.ctl.remoteWakeup } s t)

/-- SET_ADDRESS (R223): stored, not applied; the device state moves at once. Rejected on each of its four conditions, and on no other: a
Suspended device takes it, one Suspended from Configured too (assumption log 29), and leaves Suspended by it (assumption log 36). -/
def Obligations.SetAddressCompletes : Prop :=
  ∀ (s : State) (dir : Bool) (v i l : BitVec 16), ControlReady s →
    ∃ t, exec (.setAddress dir v i l) s = .next t
      ∧ (i ≠ 0 ∨ l ≠ 0 ∨ 128 ≤ v.toNat ∨ s.ctl.devState = .configured →
          Rejected (recorded (.setAddress dir v i l) s.ctl) s t)
      ∧ (i = 0 → l = 0 → v.toNat < 128 → s.ctl.devState ≠ .configured →
          StatusSent { recorded (.setAddress dir v i l) s.ctl with
            pendingAddr := some (v.extractLsb' 0 7), devState := if v = 0 then .default else .addressed } s t
          ∧ t.periph.hwAddress = s.periph.hwAddress)

/-- GET_STATUS to the device (R220): self-powered in bit 0, remote wakeup in bit 1; rejected unless two bytes are asked for.
GET_CONFIGURATION (R229): the low byte of the configuration value. -/
def Obligations.DeviceReportsComplete : Prop :=
  ∀ (s : State) (dir : Bool) (v i l : BitVec 16), ControlReady s → configWf s.cfg = true →
    (∃ t, exec (.getStatusDevice dir v i l) s = .next t
      ∧ (l ≠ 2 → Rejected (recorded (.getStatusDevice dir v i l) s.ctl) s t)
      ∧ (l = 2 →
          Answered .scratch
            [(if s.cfg.selfPowered = true then 1 else 0) ||| (if s.ctl.remoteWakeup = true then 2 else 0), 0]
            (recorded (.getStatusDevice dir v i l) s.ctl) s t))
    ∧ (∃ t, exec (.getConfiguration dir v i l) s = .next t
      ∧ Answered .scratch [s.ctl.config.extractLsb' 0 8] (recorded (.getConfiguration dir v i l) s.ctl) s t)

/-- GET_DESCRIPTOR(Device) and GET_DESCRIPTOR(Configuration) (R225, R226): the whole set, cut to wLength. -/
def Obligations.GetDescriptorCompletes : Prop :=
  ∀ (s : State) (dir : Bool) (x : Byte) (i l : BitVec 16), ControlReady s → configWf s.cfg = true →
    (∃ t, exec (.getDescriptorDevice dir x i l) s = .next t
      ∧ Answered .deviceDesc s.cfg.deviceDesc (recorded (.getDescriptorDevice dir x i l) s.ctl) s t)
    ∧ (∃ t, exec (.getDescriptorConfiguration dir x i l) s = .next t
      ∧ Answered .configDesc s.cfg.configDesc (recorded (.getDescriptorConfiguration dir x i l) s.ctl) s t)

/-- A string descriptor (R240, 30_encoding R109): length, type 3, each character followed by a zero byte. -/
def stringDescriptorOf (text : List Byte) : List Byte :=
  [BitVec.ofNat 8 (2 + 2 * text.length), 0x03] ++ text.flatMap (fun ch => [ch, 0])

/-- GET_DESCRIPTOR(String) (R227, R240, R241): the language list, the serial number, a text of STRINGS, or a rejection. -/
def Obligations.GetDescriptorStringCompletes : Prop :=
  ∀ (s : State) (dir : Bool) (x : Byte) (i l : BitVec 16), ControlReady s → configWf s.cfg = true →
    ∃ t, exec (.getDescriptorString dir x i l) s = .next t
      ∧ (let c := recorded (.getDescriptorString dir x i l) s.ctl
         (x = 0 → Answered .scratch [0x04, 0x03, 0x09, 0x04] c s t)
         ∧ (x = s.cfg.serialIndex → Answered .scratch (stringDescriptorOf (serialText s.cfg.uid)) c s t)
         ∧ (x ≠ 0 → x ≠ s.cfg.serialIndex →
              (∀ text, s.cfg.strings.lookup x = some text → Answered .scratch (stringDescriptorOf text) c s t)
              ∧ (s.cfg.strings.lookup x = none → Rejected c s t)))

/-- SET_CONFIGURATION (R230) where it is rejected, and with value 0: an active mass-storage class is left first. A Suspended device takes
it and leaves Suspended (assumption log 36). -/
def Obligations.SetConfigurationZeroCompletes : Prop :=
  ∀ (s : State) (dir : Bool) (v i l : BitVec 16), ControlReady s → configWf s.cfg = true →
    (s.ctl.devState = .default ∨ s.cfg.maxConfiguration < v.toNat →
      ∃ t, exec (.setConfiguration dir v i l) s = .next t
        ∧ Rejected (recorded (.setConfiguration dir v i l) s.ctl) s t)
    ∧ (s.ctl.devState ≠ .default → s.ctl.classActive = false →
      ∃ t, exec (.setConfiguration dir 0 i l) s = .next t
        ∧ StatusSent { recorded (.setConfiguration dir 0 i l) s.ctl with config := 0, devState := .addressed } s t)
    ∧ (s.ctl.devState ≠ .default → s.ctl.classActive = true → s.cfg.cls = .msc →
        EpUsable s.cfg.botInEp s → EpUsable s.cfg.botOutEp s →
      ∃ t, exec (.setConfiguration dir 0 i l) s = .next t ∧ t.fault = none
        ∧ t.ctl = { recorded (.setConfiguration dir 0 i l) s.ctl with
            config := 0, devState := .addressed, classActive := false, ctrlState := .statusIn }
        ∧ (∀ a, a = s.cfg.botInEp ∨ a = s.cfg.botOutEp →
            t.ep a = { s.ep a with isOpen := false, stalled := false, active := false }
            ∧ t.hw a = { s.hw a with stat := .disabled, ctr := false, setup := false })
        ∧ WritePosted ctlIn .none 0 s t
        ∧ t.bot = { s.bot with state := .idle, zlp := false }
        ∧ t = { s with eps := t.eps, hws := t.hws, ctl := t.ctl, bot := t.bot, pma := t.pma }
        ∧ OtherEpsKept [ctlIn, s.cfg.botInEp, s.cfg.botOutEp] s t)

/-- Packet memory an endpoint takes at its opening (40 R152). -/
def openSize (c : Config) (ep : EpAddr) (mps : Nat) : Nat := if ep ∈ c.dbuf then 2 * mps else mps

/-- SET_CONFIGURATION of a supported value under the mass-storage class (R230; 42 R261): an active class is left, the bulk pair is
opened at `pma_next`, a CBW read is posted, the device is Configured and the status is sent. A Suspended device takes it and leaves
Suspended (assumption log 36). -/
def Obligations.SetConfigurationEntersClass : Prop :=
  ∀ (s : State) (dir : Bool) (v i l : BitVec 16), ControlReady s → configWf s.cfg = true → s.cfg.cls = .msc →
    s.ctl.devState ≠ .default → v ≠ 0 → v.toNat ≤ s.cfg.maxConfiguration →
    (s.ctl.classActive = true → EpUsable s.cfg.botInEp s ∧ EpUsable s.cfg.botOutEp s) →
    s.pmaNext + openSize s.cfg s.cfg.botInEp s.cfg.botMps + openSize s.cfg s.cfg.botOutEp s.cfg.botMps ≤ s.cfg.pmaSize →
    ∃ t, exec (.setConfiguration dir v i l) s = .next t ∧ t.fault = none
      ∧ t.ctl = { recorded (.setConfiguration dir v i l) s.ctl with
          config := v, devState := .configured, classActive := true, ctrlState := .statusIn }
      ∧ t.ep s.cfg.botInEp = { s.ep s.cfg.botInEp with
          isOpen := true, type := .bulk, mps := s.cfg.botMps, dbuf := decide (s.cfg.botInEp ∈ s.cfg.dbuf), off0 := s.pmaNext,
          off1 := if s.cfg.botInEp ∈ s.cfg.dbuf then s.pmaNext + s.cfg.botMps else (s.ep s.cfg.botInEp).off1,
          stalled := false, active := false, remaining := 0, transferred := 0, inflight := 0, callback := some .botIn }
      ∧ t.hw s.cfg.botInEp = ⟨.nak, false, 0, false, false, false⟩
      ∧ (let at0 := s.pmaNext + openSize s.cfg s.cfg.botInEp s.cfg.botMps
         t.ep s.cfg.botOutEp = { s.ep s.cfg.botOutEp with
           isOpen := true, type := .bulk, mps := s.cfg.botMps, dbuf := decide (s.cfg.botOutEp ∈ s.cfg.dbuf), off0 := at0,
           off1 := if s.cfg.botOutEp ∈ s.cfg.dbuf then at0 + s.cfg.botMps else (s.ep s.cfg.botOutEp).off1,
           stalled := false, buf := .cbw, active := true, remaining := max s.cfg.botMps 32, transferred := 0, inflight := 0,
           callback := some .botOut })
      ∧ t.hw s.cfg.botOutEp = ⟨.valid, false, 0, false, false, false⟩
      ∧ t.pmaNext = s.pmaNext + openSize s.cfg s.cfg.botInEp s.cfg.botMps + openSize s.cfg s.cfg.botOutEp s.cfg.botMps
      ∧ t.scsi = { s.scsi with
          medium := s.cfg.storageMedium.isSome, totalBlocks := s.cfg.storageMedium.getD 0,
          writeCapable := s.cfg.storageWrite, senseHead := 0, senseTail := 0, state := .ok }
      ∧ t.bot = { s.bot with state := .idle, zlp := false }
      ∧ WritePosted ctlIn .none 0 s t
      ∧ t = { s with pmaNext := t.pmaNext, eps := t.eps, hws := t.hws, ctl := t.ctl, scsi := t.scsi, bot := t.bot, pma := t.pma }
      ∧ OtherEpsKept [ctlIn, s.cfg.botInEp, s.cfg.botOutEp] s t

/-- GET_STATUS, CLEAR_FEATURE and SET_FEATURE to an endpoint (R232-R235): rejected for an endpoint that is not legal, for another
length or selector; else the stall bit is reported, the endpoint destalled or stalled, the control pair only acknowledged. -/
def Obligations.EndpointRequestsComplete : Prop :=
  ∀ (s : State) (dir : Bool) (v i l : BitVec 16), ControlReady s → configWf s.cfg = true →
    (let e := decodeEp (i.extractLsb' 0 8)
     let get := Instr.getStatusEndpoint dir v i l
     let clear := Instr.clearFeatureEndpoint dir v i l
     let set := Instr.setFeatureEndpoint dir v i l
     (∀ r, r = get ∧ l ≠ 2 ∨ r = clear ∧ v ≠ 0 ∨ r = set ∧ v ≠ 0 ∨ (r ∈ [get, clear, set] ∧ ¬ EndpointLegal e s) →
        ∃ t, exec r s = .next t ∧ Rejected (recorded r s.ctl) s t)
     ∧ (EndpointLegal e s →
        (l = 2 → ∃ t, exec get s = .next t
          ∧ Answered .scratch [if (s.ep e).stalled = true then 1 else 0, 0] (recorded get s.ctl) s t)
        ∧ (v = 0 → e.num = 0 → ∀ r, r = clear ∨ r = set → ∃ t, exec r s = .next t ∧ StatusSent (recorded r s.ctl) s t)
        ∧ (v = 0 → e.num ≠ 0 →
            (∃ t, exec clear s = .next t ∧ t.fault = none
              ∧ t.ep e = { s.ep e with stalled := false }
              ∧ t.hw e = { s.hw e with
                  dtog := false,
                  stat := if (s.ep e).stalled = true then (if (s.ep e).active = true then .valid else .nak) else (s.hw e).stat }
              ∧ WritePosted ctlIn .none 0 s t ∧ t.ctl = { recorded clear s.ctl with ctrlState := .statusIn }
              ∧ t = { s with eps := t.eps, hws := t.hws, ctl := t.ctl, pma := t.pma } ∧ OtherEpsKept [ctlIn, e] s t)
            ∧ (∃ t, exec set s = .next t ∧ t.fault = none
              ∧ StallSet e s t
              ∧ WritePosted ctlIn .none 0 s t ∧ t.ctl = { recorded set s.ctl with ctrlState := .statusIn }
              ∧ t = { s with eps := t.eps, hws := t.hws, ctl := t.ctl, pma := t.pma } ∧ OtherEpsKept [ctlIn, e] s t))))

/-! ## Class requests (41 R237, R238; 42 R265) -/

/-- The rows that forward a request to the class. -/
def forwardsRequest : Instr → Bool
  | .setupInterfaceForward .. | .getMaxLun .. | .bulkOnlyMassStorageReset .. | .classreqOther .. => true
  | _ => false

/-- A forwarded request is rejected where no class is active or the interface is not advertised (R237), and where the mass-storage
class does not handle it (42 R265). A scheduled class request is forwarded whatever its recipient (assumption log 38). -/
def Obligations.UnhandledClassRequestsAreRejected : Prop :=
  ∀ (s : State) (i : Instr), ControlOpen s → forwardsRequest i = true →
    (¬ ForwardsToClass i s → ∃ t, exec i s = .next t ∧ Rejected (recorded i s.ctl) s t)
    ∧ (ForwardsToClass i s → s.cfg.cls = .msc →
        Instr.isMscRequest (byteAt (encode i).bytes 0) (byteAt (encode i).bytes 1)
          (le16 (byteAt (encode i).bytes 6) (byteAt (encode i).bytes 7)) = false →
        ∃ t, exec i s = .next t ∧ Rejected (recorded i s.ctl) s t)

/-- GET MAX LUN under the mass-storage class (42 R265): the one byte 00, cut to wLength; the same request as an interface SETUP does
the same. -/
def Obligations.GetMaxLunCompletes : Prop :=
  ∀ (s : State) (v i l : BitVec 16), ControlReady s → s.cfg.cls = .msc → ForwardsToClass (.getMaxLun v i l) s →
    ∃ t, exec (.getMaxLun v i l) s = .next t ∧ exec (.setupInterfaceForward true 1 0xFE v i l) s = .next t
      ∧ Answered .maxLun [0x00] (recorded (.getMaxLun v i l) s.ctl) s t

/-- Bulk-Only Mass Storage Reset (42 R265): both bulk transfers are abandoned, a CBW read is posted, the sequencer is BOT_IDLE and the
status is sent; stalls, the sense ring and the storage are not touched. -/
def Obligations.MassStorageResetCompletes : Prop :=
  ∀ (s : State) (v i : BitVec 16), ControlReady s → configWf s.cfg = true → s.cfg.cls = .msc →
    ForwardsToClass (.bulkOnlyMassStorageReset v i) s → EpUsable s.cfg.botOutEp s →
    ∃ t, exec (.bulkOnlyMassStorageReset v i) s = .next t ∧ exec (.setupInterfaceForward false 1 0xFF v i 0) s = .next t
      ∧ t.fault = none
      ∧ t.ep s.cfg.botInEp = { s.ep s.cfg.botInEp with active := false }
      ∧ t.hw s.cfg.botInEp = { s.hw s.cfg.botInEp with
          ctr := false, stat := if (s.ep s.cfg.botInEp).stalled = true then (s.hw s.cfg.botInEp).stat else .nak }
      ∧ ReadPosted s.cfg.botOutEp .cbw (max s.cfg.botMps 32) s t
      ∧ t.bot = { s.bot with state := .idle, zlp := false }
      ∧ WritePosted ctlIn .none 0 s t
      ∧ t.ctl = { recorded (.bulkOnlyMassStorageReset v i) s.ctl with ctrlState := .statusIn }
      ∧ t = { s with eps := t.eps, hws := t.hws, ctl := t.ctl, bot := t.bot, pma := t.pma }
      ∧ OtherEpsKept [ctlIn, s.cfg.botInEp, s.cfg.botOutEp] s t

/-- A forwarded request under an OPAQUE class (41 R237, R238): the class function runs on the recorded request, and its answer decides.
What it does is the run given (assumption log 13); its effect is that of its calls, in `u`. The row itself records the request (assumption
log 18), and a CLASSREQ row serves the whole forwarded request (assumption log 19), whatever its recipient (assumption log 38). A request not handled once the class has closed the
control pair stops the machine, as every stall of a closed endpoint does (40 R157). -/
def Obligations.OpaqueClassAnswersRequests : Prop :=
  ∀ (s : State) (i : Instr) (hook : Bool) (run : ClassRun) (rest : List ClassRun),
    s.fault = none → s.cfg.cls = .other hook → forwardsRequest i = true → ForwardsToClass i s → s.classRuns = run :: rest →
    ∃ u t, u = classActs run.acts { s with ctl := recorded i s.ctl, classRuns := rest, calls := .setup (requestOf i) :: s.calls }
      ∧ exec i s = .next t
      ∧ (u.fault ≠ none → t = u)
      ∧ (ControlOpen u → run.handled = false → Rejected u.ctl u t)
      ∧ (u.fault = none → 0 < u.cfg.nEp → ¬ ControlOpen u → run.handled = false → t.fault = some .epNotOpen)
      ∧ (ControlReady u → run.handled = true → u.ctl.ctrlState = .setup → u.ctl.ctrlLen = 0 → StatusSent u.ctl u t)
      ∧ (u.fault = none → run.handled = true → ¬ (u.ctl.ctrlState = .setup ∧ u.ctl.ctrlLen = 0) → t = u)

/-! ## SCSI commands (42_bot_scsi R262, R263, R272-R287) -/

/-- The commands that answer with a response. Whatever the medium (R274, R277-R279): INQUIRY, the two MODE SENSEs, and REQUEST SENSE,
which pops the oldest sense entry. With a medium (R275, R276): the capacities, big-endian, in 512-byte blocks; without, a sense error. -/
def Obligations.ScsiResponsesComplete : Prop :=
  ∀ s : State, s.fault = none →
    (∃ t, exec .inquiry s = .next t ∧ ScsiReplied s.cfg.inquiryData s.scsi.senseTail s t)
    ∧ (∃ t, exec .modeSense6 s = .next t ∧ ScsiReplied [0, 0, 0, 0] s.scsi.senseTail s t)
    ∧ (∃ t, exec .modeSense10 s = .next t ∧ ScsiReplied [0x00, 0x06, 0, 0, 0, 0, 0, 0] s.scsi.senseTail s t)
    ∧ (∃ t, exec .requestSense s = .next t
        ∧ (s.scsi.senseHead = s.scsi.senseTail → ScsiReplied (List.replicate 18 0) s.scsi.senseTail s t)
        ∧ (s.scsi.senseHead ≠ s.scsi.senseTail →
            ScsiReplied
              [0x70, 0, s.scsi.senseKey[s.scsi.senseTail.val]'s.scsi.senseTail.isLt, 0, 0, 0, 0, 0x0A, 0, 0, 0, 0,
               s.scsi.senseAsc[s.scsi.senseTail.val]'s.scsi.senseTail.isLt, 0, 0, 0, 0, 0]
              (s.scsi.senseTail + 1) s t))
    ∧ (s.scsi.medium = true →
      (∃ t, exec .readCapacity10 s = .next t
        ∧ ScsiReplied (be32Bytes (BitVec.ofNat 32 s.scsi.totalBlocks - 1) ++ [0x00, 0x00, 0x02, 0x00]) s.scsi.senseTail s t)
      ∧ (∃ t, exec .readFormatCapacities s = .next t
        ∧ ScsiReplied ([0x00, 0x00, 0x00, 0x08] ++ be32Bytes (BitVec.ofNat 32 s.scsi.totalBlocks) ++ [0x02, 0x00, 0x02, 0x00])
            s.scsi.senseTail s t))
    ∧ (s.scsi.medium = false → PushAllowed s → ∀ i, i = .readCapacity10 ∨ i = .readFormatCapacities →
        ∃ t, exec i s = .next t ∧ ScsiFailed 0x02 0x3A s t)

/-- The commands with no data (R273, R280, R281, R284): they only set the result. TEST UNIT READY and VERIFY(10) need a medium, and
VERIFY(10) a range within it. -/
def Obligations.ScsiNoDataCommandsComplete : Prop :=
  ∀ (s : State) (lba : BitVec 32) (count : BitVec 16), s.fault = none →
    (∀ i, i = .startStopUnit ∨ i = .preventAllowMediumRemoval →
      exec i s = .next { s with scsi := { s.scsi with state := .ok } })
    ∧ (s.scsi.medium = true → exec .testUnitReady s = .next { s with scsi := { s.scsi with state := .ok } })
    ∧ (s.scsi.medium = true → lba.toNat + count.toNat ≤ s.scsi.totalBlocks →
        exec (.verify10 lba count) s = .next { s with scsi := { s.scsi with state := .ok } })
    ∧ (PushAllowed s → s.scsi.medium = false → ∀ i, i = .testUnitReady ∨ i = .verify10 lba count →
        ∃ t, exec i s = .next t ∧ ScsiFailed 0x02 0x3A s t)
    ∧ (PushAllowed s → s.scsi.medium = true → s.scsi.totalBlocks < lba.toNat + count.toNat →
        ∃ t, exec (.verify10 lba count) s = .next t ∧ ScsiFailed 0x05 0x21 s t)

/-- Any other operation code (R285) pushes INVALID OPCODE; a push that fills the ring under the FAULT policy stops the machine with
the entry written (R263). -/
def Obligations.UnsupportedOpcodeFails : Prop :=
  ∀ (s : State) (o : Byte), s.fault = none →
    (PushAllowed s → ∃ t, exec (.cdbUnsupported o) s = .next t ∧ ScsiFailed 0x05 0x20 s t)
    ∧ (¬ PushAllowed s → ∃ t, exec (.cdbUnsupported o) s = .next t ∧ t.fault = some .senseOverflow
        ∧ t = { s with fault := t.fault,
                       scsi := { s.scsi with
                         senseKey := s.scsi.senseKey.set s.scsi.senseHead.val 0x05 s.scsi.senseHead.isLt,
                         senseAsc := s.scsi.senseAsc.set s.scsi.senseHead.val 0x20 s.scsi.senseHead.isLt,
                         senseHead := s.scsi.senseHead + 1 } })

/-- READ(10) (R282, R286): the checks in their order, each with its sense code; then the first block is read at once into `work`, or
the storage's failure reported. -/
def Obligations.Read10Completes : Prop :=
  ∀ (s : State) (lba : BitVec 32) (count : BitVec 16), s.fault = none →
    (PushAllowed s → s.bot.flags.getLsbD 7 = false →
      ∃ t, exec (.read10 lba count) s = .next t ∧ ScsiFailed 0x05 0x24 s t)
    ∧ (s.bot.flags.getLsbD 7 = true →
        (PushAllowed s → s.scsi.medium = false →
          ∃ t, exec (.read10 lba count) s = .next t ∧ ScsiFailed 0x02 0x3A s t)
        ∧ (s.scsi.medium = true →
            (PushAllowed s → s.scsi.totalBlocks < lba.toNat + count.toNat →
              ∃ t, exec (.read10 lba count) s = .next t ∧ ScsiFailed 0x05 0x21 s t)
            ∧ (lba.toNat + count.toNat ≤ s.scsi.totalBlocks →
                (PushAllowed s → s.bot.dataLength ≠ count.toNat * 512 →
                  ∃ t, exec (.read10 lba count) s = .next t ∧ ScsiFailed 0x05 0x24 s t)
                ∧ (s.bot.dataLength = count.toNat * 512 →
                    (count = 0 → exec (.read10 lba count) s = .next { s with scsi := { s.scsi with state := .ok } })
                    ∧ (∀ rest, count ≠ 0 → s.answers = true :: rest →
                        ∃ t, exec (.read10 lba count) s = .next t
                          ∧ (∀ j, j < 512 → bufByte t .work j = storageByte s (512 * lba.toNat + j))
                          ∧ (∀ j, 512 ≤ j → bufByte t .work j = bufByte s .work j)
                          ∧ t = { s with answers := rest,
                                         scsi := { s.scsi with
                                           work := t.scsi.work, blkAddr := lba.toNat + 1, blkLen := count.toNat - 1,
                                           state := if count = 1 then .lastDataIn else .dataIn } })
                    ∧ (∀ rest, PushAllowed s → count ≠ 0 → s.answers = false :: rest →
                        ∃ t, exec (.read10 lba count) s = .next t
                          ∧ (∀ j, 512 ≤ j → bufByte t .work j = bufByte s .work j)
                          ∧ ScsiFailed 0x04 0x11
                              { s with answers := rest, draws := s.draws + 1,
                                       scsi := { s.scsi with work := t.scsi.work, blkAddr := lba.toNat, blkLen := count.toNat } }
                              t)))))

/-- WRITE(10) (R283): the checks in their order, each with its sense code; then the blocks are set and no I/O is done yet. -/
def Obligations.Write10Completes : Prop :=
  ∀ (s : State) (lba : BitVec 32) (count : BitVec 16), s.fault = none →
    (PushAllowed s → s.bot.flags.getLsbD 7 = true →
      ∃ t, exec (.write10 lba count) s = .next t ∧ ScsiFailed 0x05 0x24 s t)
    ∧ (s.bot.flags.getLsbD 7 = false →
        (PushAllowed s → s.scsi.medium = false →
          ∃ t, exec (.write10 lba count) s = .next t ∧ ScsiFailed 0x02 0x3A s t)
        ∧ (s.scsi.medium = true →
            (PushAllowed s → s.scsi.totalBlocks < lba.toNat + count.toNat →
              ∃ t, exec (.write10 lba count) s = .next t ∧ ScsiFailed 0x05 0x21 s t)
            ∧ (lba.toNat + count.toNat ≤ s.scsi.totalBlocks →
                (PushAllowed s → s.bot.dataLength ≠ count.toNat * 512 →
                  ∃ t, exec (.write10 lba count) s = .next t ∧ ScsiFailed 0x05 0x24 s t)
                ∧ (s.bot.dataLength = count.toNat * 512 →
                    (PushAllowed s → s.scsi.writeCapable = false →
                      ∃ t, exec (.write10 lba count) s = .next t ∧ ScsiFailed 0x07 0x27 s t)
                    ∧ (s.scsi.writeCapable = true →
                        (count = 0 → exec (.write10 lba count) s = .next { s with scsi := { s.scsi with state := .ok } })
                        ∧ (count ≠ 0 → exec (.write10 lba count) s = .next { s with
                            scsi := { s.scsi with blkAddr := lba.toNat, blkLen := count.toNat, state := .dataOut } }))))))

/-! ## The BOT sequencer (42_bot_scsi R266-R271, R287) -/

/-- A malformed CBW (R266): both bulk endpoints stall, no CSW and no sense entry; the row runs whatever `bot_state` and CLASS
are (assumption log 3). -/
def Obligations.MalformedCbwStalls : Prop :=
  ∀ (s : State) (bytes : List Byte), EpUsable s.cfg.botInEp s → EpUsable s.cfg.botOutEp s → s.cfg.botInEp ≠ s.cfg.botOutEp →
    ∃ t, exec (.cbwMalformed bytes) s = .next t
      ∧ StallSet s.cfg.botInEp s t ∧ StallSet s.cfg.botOutEp s t ∧ t.bot = { s.bot with state := .stalled }
      ∧ OnlyEps [s.cfg.botInEp, s.cfg.botOutEp] { s with bot := t.bot } t

/-- A valid CBW (R267, R268): its fields are recorded, its command runs, and the command's result becomes the data stage or the CSW. -/
def Obligations.CbwRunsItsCommand : Prop :=
  ∀ (s : State) (tag len : BitVec 32) (flags n : Byte) (cdb : Vector Byte 16), BulkReady s →
    ∃ u t, exec (decodeCdb cdb) { s with
          bot := { s.bot with tag := tag, dataLength := len.toNat, flags := flags, residue := len.toNat, zlp := false } }
        = .next u
      ∧ exec (.cbw tag len flags n cdb) s = .next t
      ∧ (u.fault ≠ none → t = u)
      ∧ (u.fault = none →
          (let m := min u.scsi.respLen len.toNat
           (u.scsi.state = .ok → CswSent 0x00 u t)
           ∧ (u.scsi.state = .error → CswSent 0x01 u t)
           ∧ (u.scsi.state = .sendData → m = 0 → CswSent 0x00 u t)
           ∧ (u.scsi.state = .sendData → 0 < m → m ≤ 512 →
                WritePosted s.cfg.botInEp .work m u t
                ∧ t.bot = { u.bot with state := .dataSend, zlp := decide (m % s.cfg.botMps = 0 ∧ m < len.toNat) }
                ∧ t = { u with eps := t.eps, hws := t.hws, bot := t.bot, pma := t.pma } ∧ OtherEpsKept [s.cfg.botInEp] u t)
           ∧ (u.scsi.state = .dataIn ∨ u.scsi.state = .lastDataIn →
                WritePosted s.cfg.botInEp .work 512 u t
                ∧ t.bot = { u.bot with state := if u.scsi.state = .dataIn then .dataIn else .dataInLast }
                ∧ t = { u with eps := t.eps, hws := t.hws, bot := t.bot, pma := t.pma } ∧ OtherEpsKept [s.cfg.botInEp] u t)
           ∧ (u.scsi.state = .dataOut →
                ReadPosted s.cfg.botOutEp .work 512 u t ∧ t.bot = { u.bot with state := .dataOut }
                ∧ OnlyEps [s.cfg.botOutEp] { u with bot := t.bot } t)))

/-- EV_CTR of the last packet of a CBW transfer (40 R164; 42 R266, R271): its bytes are in `cbw_buf`, then exactly the decoded CBW row
runs, whatever CLASS is (assumption log 37). -/
def Obligations.CbwTransferRunsTheCbw : Prop :=
  ∀ s : State, configWf s.cfg = true → LastOutPending s.cfg.botOutEp s → s.bot.state = .idle →
    (s.ep s.cfg.botOutEp).buf = .cbw → (s.ep s.cfg.botOutEp).callback = some .botOut →
    (let ep := s.cfg.botOutEp
     let c := outTaken ep s
     ∃ u, exec (.evCtr ep) s = exec (decodeCbw (bufRead u .cbw 0 ((s.ep ep).transferred + c))) u
       ∧ (∀ j, j < c → bufByte u .cbw ((s.ep ep).transferred + j) = pmaByte s (outRegion ep s + j))
       ∧ BuffersKeptOutside .cbw (s.ep ep).transferred c s u
       ∧ u.ep ep = outDone ep s ∧ u.hw ep = { s.hw ep with ctr := false }
       ∧ u = { s with eps := u.eps, hws := u.hws, bot := { s.bot with cbwBuf := u.bot.cbwBuf } }
       ∧ OtherEpsKept [ep] s u)

/-- EV_CTR of the last packet of a bulk IN transfer of the mass-storage class (42 R270). In BOT_STATUS the command is complete and a CBW
read is posted. In BOT_DATA_SEND the residue falls and the ZLP owed, else the CSW, is sent; after the ZLP the CSW. In BOT_DATA_IN the
residue falls and the next block is read and sent, or its failure reported in the CSW (R286); after the last block the CSW. In the
other states nothing more happens. The callback runs whatever CLASS is (assumption log 37). -/
def Obligations.BotInCompletionAdvances : Prop :=
  ∀ s : State, configWf s.cfg = true → LastInPending s.cfg.botInEp s → (s.ep s.cfg.botInEp).callback = some .botIn →
    ∃ w t, InDelivered s.cfg.botInEp s w ∧ exec (.evCtr s.cfg.botInEp) s = .next t
      ∧ (s.bot.state = .status → EpUsable s.cfg.botOutEp s →
          ReadPosted s.cfg.botOutEp .cbw (max s.cfg.botMps 32) w t ∧ t.bot = { w.bot with state := .idle }
          ∧ OnlyEps [s.cfg.botOutEp] { w with bot := t.bot } t)
      ∧ (s.bot.state = .idle ∨ s.bot.state = .dataOut ∨ s.bot.state = .stalled → t = w)
      ∧ (EpUsable s.cfg.botInEp s → RegionFits s.cfg.botInEp s →
          (let r := residueTaken ((s.ep s.cfg.botInEp).transferred + (s.ep s.cfg.botInEp).inflight) w
           (s.bot.state = .dataSend → s.bot.zlp = true →
              WritePosted s.cfg.botInEp .none 0 r t ∧ t.bot = { r.bot with zlp := false, state := .dataZlp }
              ∧ t = { r with eps := t.eps, hws := t.hws, bot := t.bot, pma := t.pma } ∧ OtherEpsKept [s.cfg.botInEp] r t)
           ∧ (s.bot.state = .dataSend → s.bot.zlp = false → CswSent 0x00 r t)
           ∧ (s.bot.state = .dataZlp → CswSent 0x00 w t)
           ∧ (s.bot.state = .dataInLast → CswSent 0x00 r t)
           ∧ (s.bot.state = .dataIn → s.scsi.state = .dataIn → s.scsi.blkAddr < s.scsi.totalBlocks →
              (∀ rest, s.answers = true :: rest →
                (∀ j, j < 512 → bufByte t .work j = storageByte s (512 * s.scsi.blkAddr + j))
                ∧ (∀ j, 512 ≤ j → bufByte t .work j = bufByte s .work j)
                ∧ t.scsi = { s.scsi with
                    work := t.scsi.work, blkAddr := s.scsi.blkAddr + 1, blkLen := s.scsi.blkLen - 1,
                    state := if s.scsi.blkLen - 1 = 0 then .lastDataIn else .dataIn }
                ∧ t.bot = { r.bot with state := if s.scsi.blkLen - 1 = 0 then .dataInLast else .dataIn }
                ∧ WritePosted s.cfg.botInEp .work 512 w t
                ∧ t = { w with eps := t.eps, hws := t.hws, scsi := t.scsi, bot := t.bot, pma := t.pma, answers := rest }
                ∧ OtherEpsKept [s.cfg.botInEp] w t)
              ∧ (∀ rest, PushAllowed s → s.answers = false :: rest →
                ∃ v, (∀ j, 512 ≤ j → bufByte v .work j = bufByte s .work j)
                  ∧ ScsiFailed 0x04 0x11
                      { r with answers := rest, draws := s.draws + 1, scsi := { s.scsi with work := v.scsi.work } } v
                  ∧ CswSent 0x01 v t))))

/-- EV_CTR of the last packet of a WRITE(10) block (42 R271, R287): its bytes are in `work` and off the residue, in `r`. The storage
answers true: the block is the 512 bytes of `work`, in `v`; then the CSW of this command is sent, or the next block's read posted. It
answers false: the block may hold anything (U4), the write failure is pushed and the CSW reports it. The callback runs whatever CLASS is
(assumption log 37). -/
def Obligations.WriteBlockServiced : Prop :=
  ∀ (s : State) (rest : List Bool), configWf s.cfg = true → BulkReady s → LastOutPending s.cfg.botOutEp s →
    s.bot.state = .dataOut → s.scsi.state = .dataOut → s.scsi.blkAddr < s.scsi.totalBlocks →
    (s.ep s.cfg.botOutEp).buf = .work → (s.ep s.cfg.botOutEp).callback = some .botOut →
    (let ep := s.cfg.botOutEp
     let at0 := 512 * s.scsi.blkAddr
     (s.answers = true :: rest →
       ∃ w v t, OutDelivered ep s w ∧ exec (.evCtr ep) s = .next t
         ∧ (∀ j, j < 512 → storageByte v (at0 + j) = bufByte w .work j)
         ∧ (∀ a, a < at0 ∨ at0 + 512 ≤ a → storageByte v a = storageByte s a)
         ∧ v = { residueTaken ((s.ep ep).transferred + outTaken ep s) w with
                  blocks := v.blocks, answers := rest,
                  scsi := { w.scsi with blkAddr := s.scsi.blkAddr + 1, blkLen := s.scsi.blkLen - 1,
                                        state := if s.scsi.blkLen - 1 = 0 then .ok else .dataOut } }
         ∧ (s.scsi.blkLen - 1 = 0 → CswSent 0x00 v t)
         ∧ (s.scsi.blkLen - 1 ≠ 0 →
              ReadPosted ep .work 512 v t ∧ t.bot = { v.bot with state := .dataOut }
              ∧ OnlyEps [ep] { v with bot := t.bot } t))
     ∧ (PushAllowed s → s.answers = false :: rest →
       ∃ w v t, OutDelivered ep s w ∧ exec (.evCtr ep) s = .next t
         ∧ (∀ a, a < at0 ∨ at0 + 512 ≤ a → storageByte v a = storageByte s a)
         ∧ ScsiFailed 0x04 0x03
             { residueTaken ((s.ep ep).transferred + outTaken ep s) w with
               blocks := v.blocks, answers := rest, draws := s.draws + 1 } v
         ∧ CswSent 0x01 v t))

/-! ## Invariants and rules of the whole machine -/

/-- The invariants hold right after power-on, under every well-formed configuration. -/
def Obligations.InvariantsHoldAtPowerOn : Prop :=
  (∀ c : Config, configWf c = true →
    MemoryCanonical (State.powerOn c) ∧ BoundsKept (State.powerOn c) ∧ ClassActiveSound (State.powerOn c)
      ∧ ConfiguredHasClass (State.powerOn c)
      ∧ TransfersSound (State.powerOn c) ∧ RegionsSound (State.powerOn c))
  ∧ configWf State.reset.cfg = true ∧ MemoryCanonical State.reset ∧ BoundsKept State.reset

/-- Every step keeps every byte space in canonical form, the allocator's offset within packet memory, the state to restore on resume
other than Suspended (10_state R27, R28), and one half of R28's sentence on class_active: where the device is Configured, or Suspended
from Configured, the class is active. Every instruction keeps the whole sentence ("exactly there"), but for one that serves a SET_ADDRESS
on a device Suspended from Configured, which 41 R223 lets through, and so leaves the device Addressed or Default (assumption log 29); a
bus reset and a power-on make it hold from any state. -/
def Obligations.StepKeepsMemoryAndBounds : Prop :=
  (∀ s t : State, MemoryCanonical s → step s = .next t → MemoryCanonical t)
  ∧ (∀ s t : State, BoundsKept s → step s = .next t → BoundsKept t)
  ∧ (∀ s t : State, ConfiguredHasClass s → step s = .next t → ConfiguredHasClass t)
  ∧ (∀ (i : Instr) (s t : State), ClassActiveSound s → exec i s = .next t →
      ClassActiveSound t
        ∨ MayReaddressSuspended i s ∧ (t.ctl.devState = .addressed ∨ t.ctl.devState = .default))
  ∧ (∀ (i : Instr) (s t : State), i = .evReset ∨ i = .rstPowerOn → exec i s = .next t → ClassActiveSound t)

/-- Every step keeps 10_state R23 (3) and (4): an active transfer is on an open endpoint, and an IN packet in flight is within its
packet size and its transfer. -/
def Obligations.StepKeepsTransfersSound : Prop :=
  ∀ s t : State, TransfersSound s → step s = .next t → TransfersSound t

/-- Every step keeps 10_state R23 (1) and (2): no two open endpoints share packet memory, and every region is within it. -/
def Obligations.StepKeepsRegionsDisjoint : Prop :=
  ∀ s t : State, RegionsSound s → BoundsKept s → step s = .next t → RegionsSound t

/-- No instruction changes the configuration (00_scope R6), and between two resets the allocator's offset only grows (10_state
R27). -/
def Obligations.ConfigurationFixedAllocatorGrows : Prop :=
  ∀ (i : Instr) (s t : State), exec i s = .next t →
    t.cfg = s.cfg ∧ (i ≠ .evReset → i ≠ .rstPowerOn → s.pmaNext ≤ t.pmaNext)

/-- Only SET_ADDRESS, SET_CONFIGURATION (or the event that serves a SETUP), suspend, resume and the resets change the device state
(10_state R29). -/
def Obligations.DeviceStateMovesOnlyByItsTransitions : Prop :=
  ∀ (i : Instr) (s t : State), exec i s = .next t → t.ctl.devState ≠ s.ctl.devState →
    (∃ d v x l, i = .setAddress d v x l) ∨ (∃ d v x l, i = .setConfiguration d v x l)
      ∨ i = .evReset ∨ i = .evSuspend ∨ i = .evResume ∨ i = .rstPowerOn
      ∨ (i = .evCtr ctlOut ∧ (s.hw ctlOut).setup = true)
end

