-- ==== Sys2Proof/Laws/State.lean ====
section
/-!
SUPPORT. What each update of the state leaves in each field, and what the endpoint tables read back. No later proof unfolds a record
update.
-/

namespace Sys2Proof.Machine

@[simp] theorem modEp_cfg (s : State) (a : EpAddr) (f : EpRec → EpRec) : (s.modEp a f).cfg = s.cfg := rfl
@[simp] theorem modEp_fault (s : State) (a : EpAddr) (f : EpRec → EpRec) : (s.modEp a f).fault = s.fault := rfl
@[simp] theorem modEp_pmaNext (s : State) (a : EpAddr) (f : EpRec → EpRec) : (s.modEp a f).pmaNext = s.pmaNext := rfl
@[simp] theorem modEp_pma (s : State) (a : EpAddr) (f : EpRec → EpRec) : (s.modEp a f).pma = s.pma := rfl
@[simp] theorem modEp_hws (s : State) (a : EpAddr) (f : EpRec → EpRec) : (s.modEp a f).hws = s.hws := rfl
@[simp] theorem modEp_periph (s : State) (a : EpAddr) (f : EpRec → EpRec) : (s.modEp a f).periph = s.periph := rfl
@[simp] theorem modEp_ctl (s : State) (a : EpAddr) (f : EpRec → EpRec) : (s.modEp a f).ctl = s.ctl := rfl
@[simp] theorem modEp_scsi (s : State) (a : EpAddr) (f : EpRec → EpRec) : (s.modEp a f).scsi = s.scsi := rfl
@[simp] theorem modEp_bot (s : State) (a : EpAddr) (f : EpRec → EpRec) : (s.modEp a f).bot = s.bot := rfl
@[simp] theorem modEp_blocks (s : State) (a : EpAddr) (f : EpRec → EpRec) : (s.modEp a f).blocks = s.blocks := rfl
@[simp] theorem modEp_app (s : State) (a : EpAddr) (f : EpRec → EpRec) : (s.modEp a f).app = s.app := rfl
@[simp] theorem modEp_script (s : State) (a : EpAddr) (f : EpRec → EpRec) : (s.modEp a f).script = s.script := rfl
@[simp] theorem modEp_answers (s : State) (a : EpAddr) (f : EpRec → EpRec) : (s.modEp a f).answers = s.answers := rfl
@[simp] theorem modEp_classRuns (s : State) (a : EpAddr) (f : EpRec → EpRec) : (s.modEp a f).classRuns = s.classRuns := rfl
@[simp] theorem modEp_draws (s : State) (a : EpAddr) (f : EpRec → EpRec) : (s.modEp a f).draws = s.draws := rfl
@[simp] theorem modEp_epoch (s : State) (a : EpAddr) (f : EpRec → EpRec) : (s.modEp a f).epoch = s.epoch := rfl
@[simp] theorem modEp_lastOut (s : State) (a : EpAddr) (f : EpRec → EpRec) : (s.modEp a f).lastOut = s.lastOut := rfl
@[simp] theorem modEp_ret (s : State) (a : EpAddr) (f : EpRec → EpRec) : (s.modEp a f).ret = s.ret := rfl
@[simp] theorem modEp_calls (s : State) (a : EpAddr) (f : EpRec → EpRec) : (s.modEp a f).calls = s.calls := rfl
@[simp] theorem modEp_hw (s : State) (a : EpAddr) (f : EpRec → EpRec) (e : EpAddr) : (s.modEp a f).hw e = s.hw e := rfl

@[simp] theorem modHw_cfg (s : State) (a : EpAddr) (f : EpHw → EpHw) : (s.modHw a f).cfg = s.cfg := rfl
@[simp] theorem modHw_fault (s : State) (a : EpAddr) (f : EpHw → EpHw) : (s.modHw a f).fault = s.fault := rfl
@[simp] theorem modHw_pmaNext (s : State) (a : EpAddr) (f : EpHw → EpHw) : (s.modHw a f).pmaNext = s.pmaNext := rfl
@[simp] theorem modHw_pma (s : State) (a : EpAddr) (f : EpHw → EpHw) : (s.modHw a f).pma = s.pma := rfl
@[simp] theorem modHw_eps (s : State) (a : EpAddr) (f : EpHw → EpHw) : (s.modHw a f).eps = s.eps := rfl
@[simp] theorem modHw_periph (s : State) (a : EpAddr) (f : EpHw → EpHw) : (s.modHw a f).periph = s.periph := rfl
@[simp] theorem modHw_ctl (s : State) (a : EpAddr) (f : EpHw → EpHw) : (s.modHw a f).ctl = s.ctl := rfl
@[simp] theorem modHw_scsi (s : State) (a : EpAddr) (f : EpHw → EpHw) : (s.modHw a f).scsi = s.scsi := rfl
@[simp] theorem modHw_bot (s : State) (a : EpAddr) (f : EpHw → EpHw) : (s.modHw a f).bot = s.bot := rfl
@[simp] theorem modHw_blocks (s : State) (a : EpAddr) (f : EpHw → EpHw) : (s.modHw a f).blocks = s.blocks := rfl
@[simp] theorem modHw_app (s : State) (a : EpAddr) (f : EpHw → EpHw) : (s.modHw a f).app = s.app := rfl
@[simp] theorem modHw_script (s : State) (a : EpAddr) (f : EpHw → EpHw) : (s.modHw a f).script = s.script := rfl
@[simp] theorem modHw_answers (s : State) (a : EpAddr) (f : EpHw → EpHw) : (s.modHw a f).answers = s.answers := rfl
@[simp] theorem modHw_classRuns (s : State) (a : EpAddr) (f : EpHw → EpHw) : (s.modHw a f).classRuns = s.classRuns := rfl
@[simp] theorem modHw_draws (s : State) (a : EpAddr) (f : EpHw → EpHw) : (s.modHw a f).draws = s.draws := rfl
@[simp] theorem modHw_epoch (s : State) (a : EpAddr) (f : EpHw → EpHw) : (s.modHw a f).epoch = s.epoch := rfl
@[simp] theorem modHw_lastOut (s : State) (a : EpAddr) (f : EpHw → EpHw) : (s.modHw a f).lastOut = s.lastOut := rfl
@[simp] theorem modHw_ret (s : State) (a : EpAddr) (f : EpHw → EpHw) : (s.modHw a f).ret = s.ret := rfl
@[simp] theorem modHw_calls (s : State) (a : EpAddr) (f : EpHw → EpHw) : (s.modHw a f).calls = s.calls := rfl
@[simp] theorem modHw_ep (s : State) (a : EpAddr) (f : EpHw → EpHw) (e : EpAddr) : (s.modHw a f).ep e = s.ep e := rfl

@[simp] theorem modEps_cfg (s : State) (f : EpRec → EpRec) : (s.modEps f).cfg = s.cfg := rfl
@[simp] theorem modEps_fault (s : State) (f : EpRec → EpRec) : (s.modEps f).fault = s.fault := rfl
@[simp] theorem modEps_pmaNext (s : State) (f : EpRec → EpRec) : (s.modEps f).pmaNext = s.pmaNext := rfl
@[simp] theorem modEps_pma (s : State) (f : EpRec → EpRec) : (s.modEps f).pma = s.pma := rfl
@[simp] theorem modEps_eps (s : State) (f : EpRec → EpRec) : (s.modEps f).eps = mapTable f s.eps := rfl
@[simp] theorem modEps_hws (s : State) (f : EpRec → EpRec) : (s.modEps f).hws = s.hws := rfl
@[simp] theorem modEps_periph (s : State) (f : EpRec → EpRec) : (s.modEps f).periph = s.periph := rfl
@[simp] theorem modEps_ctl (s : State) (f : EpRec → EpRec) : (s.modEps f).ctl = s.ctl := rfl
@[simp] theorem modEps_scsi (s : State) (f : EpRec → EpRec) : (s.modEps f).scsi = s.scsi := rfl
@[simp] theorem modEps_bot (s : State) (f : EpRec → EpRec) : (s.modEps f).bot = s.bot := rfl
@[simp] theorem modEps_blocks (s : State) (f : EpRec → EpRec) : (s.modEps f).blocks = s.blocks := rfl
@[simp] theorem modEps_app (s : State) (f : EpRec → EpRec) : (s.modEps f).app = s.app := rfl
@[simp] theorem modEps_script (s : State) (f : EpRec → EpRec) : (s.modEps f).script = s.script := rfl
@[simp] theorem modEps_answers (s : State) (f : EpRec → EpRec) : (s.modEps f).answers = s.answers := rfl
@[simp] theorem modEps_classRuns (s : State) (f : EpRec → EpRec) : (s.modEps f).classRuns = s.classRuns := rfl
@[simp] theorem modEps_draws (s : State) (f : EpRec → EpRec) : (s.modEps f).draws = s.draws := rfl
@[simp] theorem modEps_epoch (s : State) (f : EpRec → EpRec) : (s.modEps f).epoch = s.epoch := rfl
@[simp] theorem modEps_lastOut (s : State) (f : EpRec → EpRec) : (s.modEps f).lastOut = s.lastOut := rfl
@[simp] theorem modEps_ret (s : State) (f : EpRec → EpRec) : (s.modEps f).ret = s.ret := rfl
@[simp] theorem modEps_calls (s : State) (f : EpRec → EpRec) : (s.modEps f).calls = s.calls := rfl
@[simp] theorem modEps_hw (s : State) (f : EpRec → EpRec) (e : EpAddr) : (s.modEps f).hw e = s.hw e := rfl

@[simp] theorem modHws_cfg (s : State) (f : EpHw → EpHw) : (s.modHws f).cfg = s.cfg := rfl
@[simp] theorem modHws_fault (s : State) (f : EpHw → EpHw) : (s.modHws f).fault = s.fault := rfl
@[simp] theorem modHws_pmaNext (s : State) (f : EpHw → EpHw) : (s.modHws f).pmaNext = s.pmaNext := rfl
@[simp] theorem modHws_pma (s : State) (f : EpHw → EpHw) : (s.modHws f).pma = s.pma := rfl
@[simp] theorem modHws_eps (s : State) (f : EpHw → EpHw) : (s.modHws f).eps = s.eps := rfl
@[simp] theorem modHws_hws (s : State) (f : EpHw → EpHw) : (s.modHws f).hws = mapTable f s.hws := rfl
@[simp] theorem modHws_periph (s : State) (f : EpHw → EpHw) : (s.modHws f).periph = s.periph := rfl
@[simp] theorem modHws_ctl (s : State) (f : EpHw → EpHw) : (s.modHws f).ctl = s.ctl := rfl
@[simp] theorem modHws_scsi (s : State) (f : EpHw → EpHw) : (s.modHws f).scsi = s.scsi := rfl
@[simp] theorem modHws_bot (s : State) (f : EpHw → EpHw) : (s.modHws f).bot = s.bot := rfl
@[simp] theorem modHws_blocks (s : State) (f : EpHw → EpHw) : (s.modHws f).blocks = s.blocks := rfl
@[simp] theorem modHws_app (s : State) (f : EpHw → EpHw) : (s.modHws f).app = s.app := rfl
@[simp] theorem modHws_script (s : State) (f : EpHw → EpHw) : (s.modHws f).script = s.script := rfl
@[simp] theorem modHws_answers (s : State) (f : EpHw → EpHw) : (s.modHws f).answers = s.answers := rfl
@[simp] theorem modHws_classRuns (s : State) (f : EpHw → EpHw) : (s.modHws f).classRuns = s.classRuns := rfl
@[simp] theorem modHws_draws (s : State) (f : EpHw → EpHw) : (s.modHws f).draws = s.draws := rfl
@[simp] theorem modHws_epoch (s : State) (f : EpHw → EpHw) : (s.modHws f).epoch = s.epoch := rfl
@[simp] theorem modHws_lastOut (s : State) (f : EpHw → EpHw) : (s.modHws f).lastOut = s.lastOut := rfl
@[simp] theorem modHws_ret (s : State) (f : EpHw → EpHw) : (s.modHws f).ret = s.ret := rfl
@[simp] theorem modHws_calls (s : State) (f : EpHw → EpHw) : (s.modHws f).calls = s.calls := rfl
@[simp] theorem modHws_ep (s : State) (f : EpHw → EpHw) (e : EpAddr) : (s.modHws f).ep e = s.ep e := rfl

@[simp] theorem modPeriph_cfg (s : State) (f : Periph → Periph) : (s.modPeriph f).cfg = s.cfg := rfl
@[simp] theorem modPeriph_fault (s : State) (f : Periph → Periph) : (s.modPeriph f).fault = s.fault := rfl
@[simp] theorem modPeriph_pmaNext (s : State) (f : Periph → Periph) : (s.modPeriph f).pmaNext = s.pmaNext := rfl
@[simp] theorem modPeriph_pma (s : State) (f : Periph → Periph) : (s.modPeriph f).pma = s.pma := rfl
@[simp] theorem modPeriph_eps (s : State) (f : Periph → Periph) : (s.modPeriph f).eps = s.eps := rfl
@[simp] theorem modPeriph_hws (s : State) (f : Periph → Periph) : (s.modPeriph f).hws = s.hws := rfl
@[simp] theorem modPeriph_periph (s : State) (f : Periph → Periph) : (s.modPeriph f).periph = f s.periph := rfl
@[simp] theorem modPeriph_ctl (s : State) (f : Periph → Periph) : (s.modPeriph f).ctl = s.ctl := rfl
@[simp] theorem modPeriph_scsi (s : State) (f : Periph → Periph) : (s.modPeriph f).scsi = s.scsi := rfl
@[simp] theorem modPeriph_bot (s : State) (f : Periph → Periph) : (s.modPeriph f).bot = s.bot := rfl
@[simp] theorem modPeriph_blocks (s : State) (f : Periph → Periph) : (s.modPeriph f).blocks = s.blocks := rfl
@[simp] theorem modPeriph_app (s : State) (f : Periph → Periph) : (s.modPeriph f).app = s.app := rfl
@[simp] theorem modPeriph_script (s : State) (f : Periph → Periph) : (s.modPeriph f).script = s.script := rfl
@[simp] theorem modPeriph_answers (s : State) (f : Periph → Periph) : (s.modPeriph f).answers = s.answers := rfl
@[simp] theorem modPeriph_classRuns (s : State) (f : Periph → Periph) : (s.modPeriph f).classRuns = s.classRuns := rfl
@[simp] theorem modPeriph_draws (s : State) (f : Periph → Periph) : (s.modPeriph f).draws = s.draws := rfl
@[simp] theorem modPeriph_epoch (s : State) (f : Periph → Periph) : (s.modPeriph f).epoch = s.epoch := rfl
@[simp] theorem modPeriph_lastOut (s : State) (f : Periph → Periph) : (s.modPeriph f).lastOut = s.lastOut := rfl
@[simp] theorem modPeriph_ret (s : State) (f : Periph → Periph) : (s.modPeriph f).ret = s.ret := rfl
@[simp] theorem modPeriph_calls (s : State) (f : Periph → Periph) : (s.modPeriph f).calls = s.calls := rfl
@[simp] theorem modPeriph_ep (s : State) (f : Periph → Periph) (e : EpAddr) : (s.modPeriph f).ep e = s.ep e := rfl
@[simp] theorem modPeriph_hw (s : State) (f : Periph → Periph) (e : EpAddr) : (s.modPeriph f).hw e = s.hw e := rfl

@[simp] theorem modCtl_cfg (s : State) (f : Control → Control) : (s.modCtl f).cfg = s.cfg := rfl
@[simp] theorem modCtl_fault (s : State) (f : Control → Control) : (s.modCtl f).fault = s.fault := rfl
@[simp] theorem modCtl_pmaNext (s : State) (f : Control → Control) : (s.modCtl f).pmaNext = s.pmaNext := rfl
@[simp] theorem modCtl_pma (s : State) (f : Control → Control) : (s.modCtl f).pma = s.pma := rfl
@[simp] theorem modCtl_eps (s : State) (f : Control → Control) : (s.modCtl f).eps = s.eps := rfl
@[simp] theorem modCtl_hws (s : State) (f : Control → Control) : (s.modCtl f).hws = s.hws := rfl
@[simp] theorem modCtl_periph (s : State) (f : Control → Control) : (s.modCtl f).periph = s.periph := rfl
@[simp] theorem modCtl_ctl (s : State) (f : Control → Control) : (s.modCtl f).ctl = f s.ctl := rfl
@[simp] theorem modCtl_scsi (s : State) (f : Control → Control) : (s.modCtl f).scsi = s.scsi := rfl
@[simp] theorem modCtl_bot (s : State) (f : Control → Control) : (s.modCtl f).bot = s.bot := rfl
@[simp] theorem modCtl_blocks (s : State) (f : Control → Control) : (s.modCtl f).blocks = s.blocks := rfl
@[simp] theorem modCtl_app (s : State) (f : Control → Control) : (s.modCtl f).app = s.app := rfl
@[simp] theorem modCtl_script (s : State) (f : Control → Control) : (s.modCtl f).script = s.script := rfl
@[simp] theorem modCtl_answers (s : State) (f : Control → Control) : (s.modCtl f).answers = s.answers := rfl
@[simp] theorem modCtl_classRuns (s : State) (f : Control → Control) : (s.modCtl f).classRuns = s.classRuns := rfl
@[simp] theorem modCtl_draws (s : State) (f : Control → Control) : (s.modCtl f).draws = s.draws := rfl
@[simp] theorem modCtl_epoch (s : State) (f : Control → Control) : (s.modCtl f).epoch = s.epoch := rfl
@[simp] theorem modCtl_lastOut (s : State) (f : Control → Control) : (s.modCtl f).lastOut = s.lastOut := rfl
@[simp] theorem modCtl_ret (s : State) (f : Control → Control) : (s.modCtl f).ret = s.ret := rfl
@[simp] theorem modCtl_calls (s : State) (f : Control → Control) : (s.modCtl f).calls = s.calls := rfl
@[simp] theorem modCtl_ep (s : State) (f : Control → Control) (e : EpAddr) : (s.modCtl f).ep e = s.ep e := rfl
@[simp] theorem modCtl_hw (s : State) (f : Control → Control) (e : EpAddr) : (s.modCtl f).hw e = s.hw e := rfl

@[simp] theorem modScsi_cfg (s : State) (f : Scsi → Scsi) : (s.modScsi f).cfg = s.cfg := rfl
@[simp] theorem modScsi_fault (s : State) (f : Scsi → Scsi) : (s.modScsi f).fault = s.fault := rfl
@[simp] theorem modScsi_pmaNext (s : State) (f : Scsi → Scsi) : (s.modScsi f).pmaNext = s.pmaNext := rfl
@[simp] theorem modScsi_pma (s : State) (f : Scsi → Scsi) : (s.modScsi f).pma = s.pma := rfl
@[simp] theorem modScsi_eps (s : State) (f : Scsi → Scsi) : (s.modScsi f).eps = s.eps := rfl
@[simp] theorem modScsi_hws (s : State) (f : Scsi → Scsi) : (s.modScsi f).hws = s.hws := rfl
@[simp] theorem modScsi_periph (s : State) (f : Scsi → Scsi) : (s.modScsi f).periph = s.periph := rfl
@[simp] theorem modScsi_ctl (s : State) (f : Scsi → Scsi) : (s.modScsi f).ctl = s.ctl := rfl
@[simp] theorem modScsi_scsi (s : State) (f : Scsi → Scsi) : (s.modScsi f).scsi = f s.scsi := rfl
@[simp] theorem modScsi_bot (s : State) (f : Scsi → Scsi) : (s.modScsi f).bot = s.bot := rfl
@[simp] theorem modScsi_blocks (s : State) (f : Scsi → Scsi) : (s.modScsi f).blocks = s.blocks := rfl
@[simp] theorem modScsi_app (s : State) (f : Scsi → Scsi) : (s.modScsi f).app = s.app := rfl
@[simp] theorem modScsi_script (s : State) (f : Scsi → Scsi) : (s.modScsi f).script = s.script := rfl
@[simp] theorem modScsi_answers (s : State) (f : Scsi → Scsi) : (s.modScsi f).answers = s.answers := rfl
@[simp] theorem modScsi_classRuns (s : State) (f : Scsi → Scsi) : (s.modScsi f).classRuns = s.classRuns := rfl
@[simp] theorem modScsi_draws (s : State) (f : Scsi → Scsi) : (s.modScsi f).draws = s.draws := rfl
@[simp] theorem modScsi_epoch (s : State) (f : Scsi → Scsi) : (s.modScsi f).epoch = s.epoch := rfl
@[simp] theorem modScsi_lastOut (s : State) (f : Scsi → Scsi) : (s.modScsi f).lastOut = s.lastOut := rfl
@[simp] theorem modScsi_ret (s : State) (f : Scsi → Scsi) : (s.modScsi f).ret = s.ret := rfl
@[simp] theorem modScsi_calls (s : State) (f : Scsi → Scsi) : (s.modScsi f).calls = s.calls := rfl
@[simp] theorem modScsi_ep (s : State) (f : Scsi → Scsi) (e : EpAddr) : (s.modScsi f).ep e = s.ep e := rfl
@[simp] theorem modScsi_hw (s : State) (f : Scsi → Scsi) (e : EpAddr) : (s.modScsi f).hw e = s.hw e := rfl

@[simp] theorem modBot_cfg (s : State) (f : Bot → Bot) : (s.modBot f).cfg = s.cfg := rfl
@[simp] theorem modBot_fault (s : State) (f : Bot → Bot) : (s.modBot f).fault = s.fault := rfl
@[simp] theorem modBot_pmaNext (s : State) (f : Bot → Bot) : (s.modBot f).pmaNext = s.pmaNext := rfl
@[simp] theorem modBot_pma (s : State) (f : Bot → Bot) : (s.modBot f).pma = s.pma := rfl
@[simp] theorem modBot_eps (s : State) (f : Bot → Bot) : (s.modBot f).eps = s.eps := rfl
@[simp] theorem modBot_hws (s : State) (f : Bot → Bot) : (s.modBot f).hws = s.hws := rfl
@[simp] theorem modBot_periph (s : State) (f : Bot → Bot) : (s.modBot f).periph = s.periph := rfl
@[simp] theorem modBot_ctl (s : State) (f : Bot → Bot) : (s.modBot f).ctl = s.ctl := rfl
@[simp] theorem modBot_scsi (s : State) (f : Bot → Bot) : (s.modBot f).scsi = s.scsi := rfl
@[simp] theorem modBot_bot (s : State) (f : Bot → Bot) : (s.modBot f).bot = f s.bot := rfl
@[simp] theorem modBot_blocks (s : State) (f : Bot → Bot) : (s.modBot f).blocks = s.blocks := rfl
@[simp] theorem modBot_app (s : State) (f : Bot → Bot) : (s.modBot f).app = s.app := rfl
@[simp] theorem modBot_script (s : State) (f : Bot → Bot) : (s.modBot f).script = s.script := rfl
@[simp] theorem modBot_answers (s : State) (f : Bot → Bot) : (s.modBot f).answers = s.answers := rfl
@[simp] theorem modBot_classRuns (s : State) (f : Bot → Bot) : (s.modBot f).classRuns = s.classRuns := rfl
@[simp] theorem modBot_draws (s : State) (f : Bot → Bot) : (s.modBot f).draws = s.draws := rfl
@[simp] theorem modBot_epoch (s : State) (f : Bot → Bot) : (s.modBot f).epoch = s.epoch := rfl
@[simp] theorem modBot_lastOut (s : State) (f : Bot → Bot) : (s.modBot f).lastOut = s.lastOut := rfl
@[simp] theorem modBot_ret (s : State) (f : Bot → Bot) : (s.modBot f).ret = s.ret := rfl
@[simp] theorem modBot_calls (s : State) (f : Bot → Bot) : (s.modBot f).calls = s.calls := rfl
@[simp] theorem modBot_ep (s : State) (f : Bot → Bot) (e : EpAddr) : (s.modBot f).ep e = s.ep e := rfl
@[simp] theorem modBot_hw (s : State) (f : Bot → Bot) (e : EpAddr) : (s.modBot f).hw e = s.hw e := rfl

@[simp] theorem modPma_cfg (s : State) (f : Mem → Mem) : (s.modPma f).cfg = s.cfg := rfl
@[simp] theorem modPma_fault (s : State) (f : Mem → Mem) : (s.modPma f).fault = s.fault := rfl
@[simp] theorem modPma_pmaNext (s : State) (f : Mem → Mem) : (s.modPma f).pmaNext = s.pmaNext := rfl
@[simp] theorem modPma_pma (s : State) (f : Mem → Mem) : (s.modPma f).pma = f s.pma := rfl
@[simp] theorem modPma_eps (s : State) (f : Mem → Mem) : (s.modPma f).eps = s.eps := rfl
@[simp] theorem modPma_hws (s : State) (f : Mem → Mem) : (s.modPma f).hws = s.hws := rfl
@[simp] theorem modPma_periph (s : State) (f : Mem → Mem) : (s.modPma f).periph = s.periph := rfl
@[simp] theorem modPma_ctl (s : State) (f : Mem → Mem) : (s.modPma f).ctl = s.ctl := rfl
@[simp] theorem modPma_scsi (s : State) (f : Mem → Mem) : (s.modPma f).scsi = s.scsi := rfl
@[simp] theorem modPma_bot (s : State) (f : Mem → Mem) : (s.modPma f).bot = s.bot := rfl
@[simp] theorem modPma_blocks (s : State) (f : Mem → Mem) : (s.modPma f).blocks = s.blocks := rfl
@[simp] theorem modPma_app (s : State) (f : Mem → Mem) : (s.modPma f).app = s.app := rfl
@[simp] theorem modPma_script (s : State) (f : Mem → Mem) : (s.modPma f).script = s.script := rfl
@[simp] theorem modPma_answers (s : State) (f : Mem → Mem) : (s.modPma f).answers = s.answers := rfl
@[simp] theorem modPma_classRuns (s : State) (f : Mem → Mem) : (s.modPma f).classRuns = s.classRuns := rfl
@[simp] theorem modPma_draws (s : State) (f : Mem → Mem) : (s.modPma f).draws = s.draws := rfl
@[simp] theorem modPma_epoch (s : State) (f : Mem → Mem) : (s.modPma f).epoch = s.epoch := rfl
@[simp] theorem modPma_lastOut (s : State) (f : Mem → Mem) : (s.modPma f).lastOut = s.lastOut := rfl
@[simp] theorem modPma_ret (s : State) (f : Mem → Mem) : (s.modPma f).ret = s.ret := rfl
@[simp] theorem modPma_calls (s : State) (f : Mem → Mem) : (s.modPma f).calls = s.calls := rfl
@[simp] theorem modPma_ep (s : State) (f : Mem → Mem) (e : EpAddr) : (s.modPma f).ep e = s.ep e := rfl
@[simp] theorem modPma_hw (s : State) (f : Mem → Mem) (e : EpAddr) : (s.modPma f).hw e = s.hw e := rfl

@[simp] theorem modBlocks_cfg (s : State) (f : Mem → Mem) : (s.modBlocks f).cfg = s.cfg := rfl
@[simp] theorem modBlocks_fault (s : State) (f : Mem → Mem) : (s.modBlocks f).fault = s.fault := rfl
@[simp] theorem modBlocks_pmaNext (s : State) (f : Mem → Mem) : (s.modBlocks f).pmaNext = s.pmaNext := rfl
@[simp] theorem modBlocks_pma (s : State) (f : Mem → Mem) : (s.modBlocks f).pma = s.pma := rfl
@[simp] theorem modBlocks_eps (s : State) (f : Mem → Mem) : (s.modBlocks f).eps = s.eps := rfl
@[simp] theorem modBlocks_hws (s : State) (f : Mem → Mem) : (s.modBlocks f).hws = s.hws := rfl
@[simp] theorem modBlocks_periph (s : State) (f : Mem → Mem) : (s.modBlocks f).periph = s.periph := rfl
@[simp] theorem modBlocks_ctl (s : State) (f : Mem → Mem) : (s.modBlocks f).ctl = s.ctl := rfl
@[simp] theorem modBlocks_scsi (s : State) (f : Mem → Mem) : (s.modBlocks f).scsi = s.scsi := rfl
@[simp] theorem modBlocks_bot (s : State) (f : Mem → Mem) : (s.modBlocks f).bot = s.bot := rfl
@[simp] theorem modBlocks_blocks (s : State) (f : Mem → Mem) : (s.modBlocks f).blocks = f s.blocks := rfl
@[simp] theorem modBlocks_app (s : State) (f : Mem → Mem) : (s.modBlocks f).app = s.app := rfl
@[simp] theorem modBlocks_script (s : State) (f : Mem → Mem) : (s.modBlocks f).script = s.script := rfl
@[simp] theorem modBlocks_answers (s : State) (f : Mem → Mem) : (s.modBlocks f).answers = s.answers := rfl
@[simp] theorem modBlocks_classRuns (s : State) (f : Mem → Mem) : (s.modBlocks f).classRuns = s.classRuns := rfl
@[simp] theorem modBlocks_draws (s : State) (f : Mem → Mem) : (s.modBlocks f).draws = s.draws := rfl
@[simp] theorem modBlocks_epoch (s : State) (f : Mem → Mem) : (s.modBlocks f).epoch = s.epoch := rfl
@[simp] theorem modBlocks_lastOut (s : State) (f : Mem → Mem) : (s.modBlocks f).lastOut = s.lastOut := rfl
@[simp] theorem modBlocks_ret (s : State) (f : Mem → Mem) : (s.modBlocks f).ret = s.ret := rfl
@[simp] theorem modBlocks_calls (s : State) (f : Mem → Mem) : (s.modBlocks f).calls = s.calls := rfl
@[simp] theorem modBlocks_ep (s : State) (f : Mem → Mem) (e : EpAddr) : (s.modBlocks f).ep e = s.ep e := rfl
@[simp] theorem modBlocks_hw (s : State) (f : Mem → Mem) (e : EpAddr) : (s.modBlocks f).hw e = s.hw e := rfl

@[simp] theorem modApp_cfg (s : State) (f : Mem → Mem) : (s.modApp f).cfg = s.cfg := rfl
@[simp] theorem modApp_fault (s : State) (f : Mem → Mem) : (s.modApp f).fault = s.fault := rfl
@[simp] theorem modApp_pmaNext (s : State) (f : Mem → Mem) : (s.modApp f).pmaNext = s.pmaNext := rfl
@[simp] theorem modApp_pma (s : State) (f : Mem → Mem) : (s.modApp f).pma = s.pma := rfl
@[simp] theorem modApp_eps (s : State) (f : Mem → Mem) : (s.modApp f).eps = s.eps := rfl
@[simp] theorem modApp_hws (s : State) (f : Mem → Mem) : (s.modApp f).hws = s.hws := rfl
@[simp] theorem modApp_periph (s : State) (f : Mem → Mem) : (s.modApp f).periph = s.periph := rfl
@[simp] theorem modApp_ctl (s : State) (f : Mem → Mem) : (s.modApp f).ctl = s.ctl := rfl
@[simp] theorem modApp_scsi (s : State) (f : Mem → Mem) : (s.modApp f).scsi = s.scsi := rfl
@[simp] theorem modApp_bot (s : State) (f : Mem → Mem) : (s.modApp f).bot = s.bot := rfl
@[simp] theorem modApp_blocks (s : State) (f : Mem → Mem) : (s.modApp f).blocks = s.blocks := rfl
@[simp] theorem modApp_app (s : State) (f : Mem → Mem) : (s.modApp f).app = f s.app := rfl
@[simp] theorem modApp_script (s : State) (f : Mem → Mem) : (s.modApp f).script = s.script := rfl
@[simp] theorem modApp_answers (s : State) (f : Mem → Mem) : (s.modApp f).answers = s.answers := rfl
@[simp] theorem modApp_classRuns (s : State) (f : Mem → Mem) : (s.modApp f).classRuns = s.classRuns := rfl
@[simp] theorem modApp_draws (s : State) (f : Mem → Mem) : (s.modApp f).draws = s.draws := rfl
@[simp] theorem modApp_epoch (s : State) (f : Mem → Mem) : (s.modApp f).epoch = s.epoch := rfl
@[simp] theorem modApp_lastOut (s : State) (f : Mem → Mem) : (s.modApp f).lastOut = s.lastOut := rfl
@[simp] theorem modApp_ret (s : State) (f : Mem → Mem) : (s.modApp f).ret = s.ret := rfl
@[simp] theorem modApp_calls (s : State) (f : Mem → Mem) : (s.modApp f).calls = s.calls := rfl
@[simp] theorem modApp_ep (s : State) (f : Mem → Mem) (e : EpAddr) : (s.modApp f).ep e = s.ep e := rfl
@[simp] theorem modApp_hw (s : State) (f : Mem → Mem) (e : EpAddr) : (s.modApp f).hw e = s.hw e := rfl

@[simp] theorem setPmaNext_cfg (s : State) (n : Nat) : (s.setPmaNext n).cfg = s.cfg := rfl
@[simp] theorem setPmaNext_fault (s : State) (n : Nat) : (s.setPmaNext n).fault = s.fault := rfl
@[simp] theorem setPmaNext_pmaNext (s : State) (n : Nat) : (s.setPmaNext n).pmaNext = n := rfl
@[simp] theorem setPmaNext_pma (s : State) (n : Nat) : (s.setPmaNext n).pma = s.pma := rfl
@[simp] theorem setPmaNext_eps (s : State) (n : Nat) : (s.setPmaNext n).eps = s.eps := rfl
@[simp] theorem setPmaNext_hws (s : State) (n : Nat) : (s.setPmaNext n).hws = s.hws := rfl
@[simp] theorem setPmaNext_periph (s : State) (n : Nat) : (s.setPmaNext n).periph = s.periph := rfl
@[simp] theorem setPmaNext_ctl (s : State) (n : Nat) : (s.setPmaNext n).ctl = s.ctl := rfl
@[simp] theorem setPmaNext_scsi (s : State) (n : Nat) : (s.setPmaNext n).scsi = s.scsi := rfl
@[simp] theorem setPmaNext_bot (s : State) (n : Nat) : (s.setPmaNext n).bot = s.bot := rfl
@[simp] theorem setPmaNext_blocks (s : State) (n : Nat) : (s.setPmaNext n).blocks = s.blocks := rfl
@[simp] theorem setPmaNext_app (s : State) (n : Nat) : (s.setPmaNext n).app = s.app := rfl
@[simp] theorem setPmaNext_script (s : State) (n : Nat) : (s.setPmaNext n).script = s.script := rfl
@[simp] theorem setPmaNext_answers (s : State) (n : Nat) : (s.setPmaNext n).answers = s.answers := rfl
@[simp] theorem setPmaNext_classRuns (s : State) (n : Nat) : (s.setPmaNext n).classRuns = s.classRuns := rfl
@[simp] theorem setPmaNext_draws (s : State) (n : Nat) : (s.setPmaNext n).draws = s.draws := rfl
@[simp] theorem setPmaNext_epoch (s : State) (n : Nat) : (s.setPmaNext n).epoch = s.epoch := rfl
@[simp] theorem setPmaNext_lastOut (s : State) (n : Nat) : (s.setPmaNext n).lastOut = s.lastOut := rfl
@[simp] theorem setPmaNext_ret (s : State) (n : Nat) : (s.setPmaNext n).ret = s.ret := rfl
@[simp] theorem setPmaNext_calls (s : State) (n : Nat) : (s.setPmaNext n).calls = s.calls := rfl
@[simp] theorem setPmaNext_ep (s : State) (n : Nat) (e : EpAddr) : (s.setPmaNext n).ep e = s.ep e := rfl
@[simp] theorem setPmaNext_hw (s : State) (n : Nat) (e : EpAddr) : (s.setPmaNext n).hw e = s.hw e := rfl

@[simp] theorem returning_cfg (s : State) (v : RetVal) : (s.returning v).cfg = s.cfg := rfl
@[simp] theorem returning_fault (s : State) (v : RetVal) : (s.returning v).fault = s.fault := rfl
@[simp] theorem returning_pmaNext (s : State) (v : RetVal) : (s.returning v).pmaNext = s.pmaNext := rfl
@[simp] theorem returning_pma (s : State) (v : RetVal) : (s.returning v).pma = s.pma := rfl
@[simp] theorem returning_eps (s : State) (v : RetVal) : (s.returning v).eps = s.eps := rfl
@[simp] theorem returning_hws (s : State) (v : RetVal) : (s.returning v).hws = s.hws := rfl
@[simp] theorem returning_periph (s : State) (v : RetVal) : (s.returning v).periph = s.periph := rfl
@[simp] theorem returning_ctl (s : State) (v : RetVal) : (s.returning v).ctl = s.ctl := rfl
@[simp] theorem returning_scsi (s : State) (v : RetVal) : (s.returning v).scsi = s.scsi := rfl
@[simp] theorem returning_bot (s : State) (v : RetVal) : (s.returning v).bot = s.bot := rfl
@[simp] theorem returning_blocks (s : State) (v : RetVal) : (s.returning v).blocks = s.blocks := rfl
@[simp] theorem returning_app (s : State) (v : RetVal) : (s.returning v).app = s.app := rfl
@[simp] theorem returning_script (s : State) (v : RetVal) : (s.returning v).script = s.script := rfl
@[simp] theorem returning_answers (s : State) (v : RetVal) : (s.returning v).answers = s.answers := rfl
@[simp] theorem returning_classRuns (s : State) (v : RetVal) : (s.returning v).classRuns = s.classRuns := rfl
@[simp] theorem returning_draws (s : State) (v : RetVal) : (s.returning v).draws = s.draws := rfl
@[simp] theorem returning_epoch (s : State) (v : RetVal) : (s.returning v).epoch = s.epoch := rfl
@[simp] theorem returning_lastOut (s : State) (v : RetVal) : (s.returning v).lastOut = s.lastOut := rfl
@[simp] theorem returning_ret (s : State) (v : RetVal) : (s.returning v).ret = v := rfl
@[simp] theorem returning_calls (s : State) (v : RetVal) : (s.returning v).calls = s.calls := rfl
@[simp] theorem returning_ep (s : State) (v : RetVal) (e : EpAddr) : (s.returning v).ep e = s.ep e := rfl
@[simp] theorem returning_hw (s : State) (v : RetVal) (e : EpAddr) : (s.returning v).hw e = s.hw e := rfl

@[simp] theorem answer_cfg (s : State) (o : HostOutcome) : (s.answer o).cfg = s.cfg := rfl
@[simp] theorem answer_fault (s : State) (o : HostOutcome) : (s.answer o).fault = s.fault := rfl
@[simp] theorem answer_pmaNext (s : State) (o : HostOutcome) : (s.answer o).pmaNext = s.pmaNext := rfl
@[simp] theorem answer_pma (s : State) (o : HostOutcome) : (s.answer o).pma = s.pma := rfl
@[simp] theorem answer_eps (s : State) (o : HostOutcome) : (s.answer o).eps = s.eps := rfl
@[simp] theorem answer_hws (s : State) (o : HostOutcome) : (s.answer o).hws = s.hws := rfl
@[simp] theorem answer_periph (s : State) (o : HostOutcome) : (s.answer o).periph = s.periph := rfl
@[simp] theorem answer_ctl (s : State) (o : HostOutcome) : (s.answer o).ctl = s.ctl := rfl
@[simp] theorem answer_scsi (s : State) (o : HostOutcome) : (s.answer o).scsi = s.scsi := rfl
@[simp] theorem answer_bot (s : State) (o : HostOutcome) : (s.answer o).bot = s.bot := rfl
@[simp] theorem answer_blocks (s : State) (o : HostOutcome) : (s.answer o).blocks = s.blocks := rfl
@[simp] theorem answer_app (s : State) (o : HostOutcome) : (s.answer o).app = s.app := rfl
@[simp] theorem answer_script (s : State) (o : HostOutcome) : (s.answer o).script = s.script := rfl
@[simp] theorem answer_answers (s : State) (o : HostOutcome) : (s.answer o).answers = s.answers := rfl
@[simp] theorem answer_classRuns (s : State) (o : HostOutcome) : (s.answer o).classRuns = s.classRuns := rfl
@[simp] theorem answer_draws (s : State) (o : HostOutcome) : (s.answer o).draws = s.draws := rfl
@[simp] theorem answer_epoch (s : State) (o : HostOutcome) : (s.answer o).epoch = s.epoch := rfl
@[simp] theorem answer_lastOut (s : State) (o : HostOutcome) : (s.answer o).lastOut = o := rfl
@[simp] theorem answer_ret (s : State) (o : HostOutcome) : (s.answer o).ret = s.ret := rfl
@[simp] theorem answer_calls (s : State) (o : HostOutcome) : (s.answer o).calls = s.calls := rfl
@[simp] theorem answer_ep (s : State) (o : HostOutcome) (e : EpAddr) : (s.answer o).ep e = s.ep e := rfl
@[simp] theorem answer_hw (s : State) (o : HostOutcome) (e : EpAddr) : (s.answer o).hw e = s.hw e := rfl

/-! ## The block's own buffers and the class layer's arrays (20_memory R72) -/

@[simp] theorem bufByte_scratch (s : State) (i : Nat) : bufByte s .scratch i = byteOf .scratch s.epoch s.ctl.scratch i := rfl
@[simp] theorem bufByte_work (s : State) (i : Nat) : bufByte s .work i = byteOf .work s.epoch s.scsi.work i := rfl
@[simp] theorem bufByte_cbw (s : State) (i : Nat) : bufByte s .cbw i = byteOf .cbw s.epoch s.bot.cbwBuf i := rfl
@[simp] theorem bufByte_csw (s : State) (i : Nat) : bufByte s .csw i = byteOf .csw s.epoch s.bot.cswBuf i := rfl
@[simp] theorem bufByte_app (s : State) (a n o : BitVec 32) (i : Nat) :
    bufByte s ⟨.app a n, o⟩ i = byteOf .app s.epoch s.app (a.toNat + (i + o.toNat)) := rfl
@[simp] theorem bufWrite_scratch (s : State) (k : Nat) (bs : List Byte) :
    bufWrite .scratch k bs s = s.modCtl (fun c => { c with scratch := memWrite c.scratch k bs }) := rfl
@[simp] theorem bufWrite_work (s : State) (k : Nat) (bs : List Byte) :
    bufWrite .work k bs s = s.modScsi (fun c => { c with work := memWrite c.work k bs }) := rfl
@[simp] theorem bufWrite_cbw (s : State) (k : Nat) (bs : List Byte) :
    bufWrite .cbw k bs s = s.modBot (fun c => { c with cbwBuf := memWrite c.cbwBuf k bs }) := rfl
@[simp] theorem bufWrite_csw (s : State) (k : Nat) (bs : List Byte) :
    bufWrite .csw k bs s = s.modBot (fun c => { c with cswBuf := memWrite c.cswBuf k bs }) := rfl
@[simp] theorem bufWrite_app (s : State) (a n o : BitVec 32) (k : Nat) (bs : List Byte) :
    bufWrite ⟨.app a n, o⟩ k bs s = s.modApp (fun m => memWrite m (a.toNat + (k + o.toNat)) bs) := rfl

/-! ## The peripheral interface (40 R177) -/

@[simp] theorem peripheralInit_periph (s : State) :
    (peripheralInit s).periph = ⟨s.periph.started, 0, false, false, false⟩ := rfl
@[simp] theorem peripheralInit_eps (s : State) : (peripheralInit s).eps = s.eps := rfl
@[simp] theorem peripheralStart_periph (s : State) : (peripheralStart s).periph = { s.periph with started := true } := rfl
@[simp] theorem peripheralStop_periph (s : State) : (peripheralStop s).periph = { s.periph with started := false } := rfl

/-! ## Raising a fault changes nothing but the fault field -/

theorem raise_eq (s : State) (r : FaultReason) : s.raise r = { s with fault := some (s.fault.getD r) } := by
  cases s; rename_i fault _ _ _ _ _ _ _ _ _ _ _ _ _ _ _ _ _ _; cases fault <;> rfl

@[simp] theorem raise_cfg (s : State) (r : FaultReason) : (s.raise r).cfg = s.cfg := by rw [raise_eq]
@[simp] theorem raise_fault (s : State) (r : FaultReason) : (s.raise r).fault = some (s.fault.getD r) := by rw [raise_eq]
@[simp] theorem raise_pmaNext (s : State) (r : FaultReason) : (s.raise r).pmaNext = s.pmaNext := by rw [raise_eq]
@[simp] theorem raise_pma (s : State) (r : FaultReason) : (s.raise r).pma = s.pma := by rw [raise_eq]
@[simp] theorem raise_eps (s : State) (r : FaultReason) : (s.raise r).eps = s.eps := by rw [raise_eq]
@[simp] theorem raise_hws (s : State) (r : FaultReason) : (s.raise r).hws = s.hws := by rw [raise_eq]
@[simp] theorem raise_periph (s : State) (r : FaultReason) : (s.raise r).periph = s.periph := by rw [raise_eq]
@[simp] theorem raise_ctl (s : State) (r : FaultReason) : (s.raise r).ctl = s.ctl := by rw [raise_eq]
@[simp] theorem raise_scsi (s : State) (r : FaultReason) : (s.raise r).scsi = s.scsi := by rw [raise_eq]
@[simp] theorem raise_bot (s : State) (r : FaultReason) : (s.raise r).bot = s.bot := by rw [raise_eq]
@[simp] theorem raise_blocks (s : State) (r : FaultReason) : (s.raise r).blocks = s.blocks := by rw [raise_eq]
@[simp] theorem raise_app (s : State) (r : FaultReason) : (s.raise r).app = s.app := by rw [raise_eq]
@[simp] theorem raise_script (s : State) (r : FaultReason) : (s.raise r).script = s.script := by rw [raise_eq]
@[simp] theorem raise_answers (s : State) (r : FaultReason) : (s.raise r).answers = s.answers := by rw [raise_eq]
@[simp] theorem raise_classRuns (s : State) (r : FaultReason) : (s.raise r).classRuns = s.classRuns := by rw [raise_eq]
@[simp] theorem raise_draws (s : State) (r : FaultReason) : (s.raise r).draws = s.draws := by rw [raise_eq]
@[simp] theorem raise_epoch (s : State) (r : FaultReason) : (s.raise r).epoch = s.epoch := by rw [raise_eq]
@[simp] theorem raise_lastOut (s : State) (r : FaultReason) : (s.raise r).lastOut = s.lastOut := by rw [raise_eq]
@[simp] theorem raise_ret (s : State) (r : FaultReason) : (s.raise r).ret = s.ret := by rw [raise_eq]
@[simp] theorem raise_calls (s : State) (r : FaultReason) : (s.raise r).calls = s.calls := by rw [raise_eq]
@[simp] theorem raise_ep (s : State) (r : FaultReason) (e : EpAddr) : (s.raise r).ep e = s.ep e := by rw [raise_eq]; rfl
@[simp] theorem raise_hw (s : State) (r : FaultReason) (e : EpAddr) : (s.raise r).hw e = s.hw e := by rw [raise_eq]; rfl

/-! ## The endpoint tables -/

theorem epSlot_injective {a b : EpAddr} (h : (epSlot a).val = (epSlot b).val) : a = b := by
  obtain ⟨ai, an⟩ := a
  obtain ⟨bi, bn⟩ := b
  have ha := an.isLt
  have hb := bn.isLt
  cases ai <;> cases bi <;> simp only [epSlot] at h <;> simp_all
  all_goals first
    | omega
    | exact BitVec.eq_of_toNat_eq (by omega)

@[simp] theorem ep_modEp_same (s : State) (a : EpAddr) (f : EpRec → EpRec) : (s.modEp a f).ep a = f (s.ep a) := by
  simp [State.ep, State.modEp]

theorem ep_modEp_ne (s : State) {a b : EpAddr} (f : EpRec → EpRec) (h : b ≠ a) : (s.modEp a f).ep b = s.ep b := by
  have : (epSlot a).val ≠ (epSlot b).val := fun e => h (epSlot_injective e).symm
  simp [State.ep, State.modEp, this]

@[simp] theorem hw_modHw_same (s : State) (a : EpAddr) (f : EpHw → EpHw) : (s.modHw a f).hw a = f (s.hw a) := by
  simp [State.hw, State.modHw]

theorem hw_modHw_ne (s : State) {a b : EpAddr} (f : EpHw → EpHw) (h : b ≠ a) : (s.modHw a f).hw b = s.hw b := by
  have : (epSlot a).val ≠ (epSlot b).val := fun e => h (epSlot_injective e).symm
  simp [State.hw, State.modHw, this]

/-- Writing back what is there changes nothing. -/
theorem modEp_self {s : State} {a : EpAddr} {f : EpRec → EpRec} (h : f (s.ep a) = s.ep a) : s.modEp a f = s := by
  unfold State.modEp
  rw [h]
  simp [State.ep]

theorem modHw_self {s : State} {a : EpAddr} {f : EpHw → EpHw} (h : f (s.hw a) = s.hw a) : s.modHw a f = s := by
  unfold State.modHw
  rw [h]
  simp [State.hw]

/-- Two writes to one entry are one. -/
@[simp] theorem modEp_modEp (s : State) (a : EpAddr) (f g : EpRec → EpRec) :
    (s.modEp a f).modEp a g = s.modEp a (fun e => g (f e)) := by
  simp [State.modEp, State.ep]

@[simp] theorem modHw_modHw (s : State) (a : EpAddr) (f g : EpHw → EpHw) :
    (s.modHw a f).modHw a g = s.modHw a (fun h => g (f h)) := by
  simp [State.modHw, State.hw]

@[simp] theorem mapTable_get {α β : Type} (f : α → β) (v : Vector α 32) (i : Nat) (h : i < 32) :
    (mapTable f v)[i] = f v[i] := by
  simp [mapTable, Vector.getElem_mk]

@[simp] theorem ep_modEps (s : State) (f : EpRec → EpRec) (a : EpAddr) : (s.modEps f).ep a = f (s.ep a) := by
  simp [State.ep, State.modEps]

@[simp] theorem hw_modHws (s : State) (f : EpHw → EpHw) (a : EpAddr) : (s.modHws f).hw a = f (s.hw a) := by
  simp [State.hw, State.modHws]

/-! ## Sequencing and steps -/

@[simp] theorem andThen_running {s : State} (h : s.fault = none) (f : State → State) : s.andThen f = f s := by
  simp [State.andThen, h]

@[simp] theorem andThen_faulted {s : State} {r : FaultReason} (h : s.fault = some r) (f : State → State) : s.andThen f = s := by
  simp [State.andThen, h]

/-- What sequencing can do: stop at the fault, or run the rest. -/
theorem andThen_cases (s : State) (f : State → State) :
    (∃ r, s.fault = some r ∧ s.andThen f = s) ∨ (s.fault = none ∧ s.andThen f = f s) := by
  cases h : s.fault with
  | none => exact .inr ⟨rfl, andThen_running h f⟩
  | some r => exact .inl ⟨r, rfl, andThen_faulted h f⟩

theorem agentStep_running {s : State} (h : s.fault = none) (f : State → State) : agentStep s f = .next (f s) := by
  simp [agentStep, h]

theorem agentStep_stopped {s : State} {r : FaultReason} (h : s.fault = some r) (f : State → State) :
    agentStep s f = .fault (.stopped r) := by
  simp [agentStep, h]

/-- What an agent's step can answer. -/
theorem agentStep_next {s t : State} {f : State → State} (h : agentStep s f = .next t) : s.fault = none ∧ t = f s := by
  unfold agentStep at h
  split at h
  · rename_i h'
    exact ⟨h', (Host.Outcome.next.inj h).symm⟩
  · cases h

/-- What a guarded step can answer. -/
theorem guardedStep_next {s t : State} {g : State → Option NoStep} {f : State → State} (h : guardedStep s g f = .next t) :
    s.fault = none ∧ g s = none ∧ t = f s := by
  unfold guardedStep at h
  split at h
  · cases h
  · rename_i h'
    split at h
    · cases h
    · rename_i h''
      exact ⟨h', h'', (Host.Outcome.next.inj h).symm⟩

theorem guardedStep_running {s : State} {g : State → Option NoStep} (h : s.fault = none) (hg : g s = none) (f : State → State) :
    guardedStep s g f = .next (f s) := by
  simp [guardedStep, h, hg]

end Sys2Proof.Machine
end

