-- ==== Sys2Proof/Laws/Config.lean ====
section
/-!
SUPPORT. What a well-formed configuration gives (00_scope R6): each condition by name.
-/

namespace Sys2Proof.Machine

theorem configWf_control {c : Config} (h : configWf c = true) :
    c.pmaBase + 2 * c.ep0Mps ≤ c.pmaSize ∧ 8 ≤ c.ep0Mps ∧ c.ep0Mps ≤ 64 ∧ 1 ≤ c.nEp ∧ c.nEp ≤ 16 := by
  simp only [configWf, Bool.and_eq_true, legalMps, Bool.or_eq_true, beq_iff_eq, decide_eq_true_eq] at h
  omega

theorem configWf_bulk {c : Config} (h : configWf c = true) :
    c.botInEp.isIn = true ∧ c.botOutEp.isIn = false ∧ c.botInEp.num ≠ 0 ∧ c.botOutEp.num ≠ 0
      ∧ c.botInEp.num.toNat < c.nEp ∧ c.botOutEp.num.toNat < c.nEp ∧ 8 ≤ c.botMps ∧ c.botMps ≤ 64 := by
  simp only [configWf, Bool.and_eq_true, legalMps, Bool.or_eq_true, beq_iff_eq, decide_eq_true_eq, epExists, bne_iff_ne,
    Bool.not_eq_true'] at h
  have h1 : c.botInEp.isIn = true := by tauto
  have h2 : c.botOutEp.isIn = false := by tauto
  have h3 : c.botInEp.num ≠ 0 := by tauto
  have h4 : c.botOutEp.num ≠ 0 := by tauto
  refine ⟨h1, h2, h3, h4, ?_⟩
  omega

theorem configWf_descriptors {c : Config} (h : configWf c = true) :
    c.deviceDesc.length = 18 ∧ c.configDesc.length ≤ 65535 ∧ c.inquiryData.length = 36 := by
  simp only [configWf, Bool.and_eq_true, beq_iff_eq, decide_eq_true_eq] at h
  omega

theorem configWf_strings {c : Config} (h : configWf c = true) :
    (serialDesc c).length ≤ ctrlBufSize c ∧ (∀ e ∈ c.strings, (stringDesc e.2).length ≤ ctrlBufSize c) ∧ c.serialIndex ≠ 0 := by
  simp only [configWf, Bool.and_eq_true, descFits, decide_eq_true_eq, List.all_eq_true, bne_iff_ne] at h
  have h1 : (serialDesc c).length ≤ min (ctrlBufSize c) 255 := by tauto
  have h2 : ∀ e ∈ c.strings, (stringDesc e.2).length ≤ min (ctrlBufSize c) 255 := by tauto
  have h3 : c.serialIndex ≠ 0 := by tauto
  exact ⟨by omega, fun e he => by have := h2 e he; omega, h3⟩

theorem configWf_dbuf {c : Config} (h : configWf c = true) : ∀ e ∈ c.dbuf, e.num ≠ 0 := by
  simp only [configWf, Bool.and_eq_true, List.all_eq_true, bne_iff_ne] at h
  tauto

theorem configWf_storage {c : Config} (h : configWf c = true) :
    c.storageMedium.getD 0 < 2 ^ 32 ∧ memWf c.storageCells = true := by
  simp only [configWf, Bool.and_eq_true] at h
  refine ⟨?_, by tauto⟩
  have := h.1.2
  cases hm : c.storageMedium with
  | none => simp
  | some n => simpa [hm] using this

/-- The control pair is never double-buffered (00_scope R6). -/
theorem isDbuf_control {c : Config} (h : configWf c = true) {a : EpAddr} (ha : a.num = 0) : isDbuf c a = false := by
  simp only [isDbuf, List.contains_eq_mem, decide_eq_false_iff_not]
  exact fun hm => configWf_dbuf h a hm ha

end Sys2Proof.Machine
end

