-- ==== Sys2Proof/Laws/Memory.lean ====
section
/-!
SUPPORT. The laws of the byte spaces: a write is read back, leaves every other byte alone, and keeps the canonical form.
-/

namespace Sys2Proof.Machine

/-! ## Reading after writing -/

theorem memGet_append (m n : Mem) (k : Nat) : memGet (m ++ n) k = (memGet m k).or (memGet n k) := by
  induction m with
  | nil => rfl
  | cons c m ih =>
    obtain ⟨a, b⟩ := c
    simp only [List.cons_append, memGet]
    split
    · rfl
    · exact ih

theorem memGet_cellsFrom (a : Nat) (bs : List Byte) (k : Nat) :
    memGet (cellsFrom a bs) k = if a ≤ k then bs[k - a]? else none := by
  induction bs generalizing a with
  | nil => simp [cellsFrom, memGet]
  | cons b bs ih =>
    simp only [cellsFrom, memGet, ih]
    by_cases h : a = k
    · subst h; simp
    · rw [if_neg h]
      by_cases h' : a ≤ k
      · have e : k - a = (k - (a + 1)) + 1 := by omega
        rw [if_pos h', if_pos (by omega : a + 1 ≤ k), e, List.getElem?_cons_succ]
      · rw [if_neg h', if_neg (by omega)]

theorem memGet_filter (p : Nat → Bool) (m : Mem) (k : Nat) :
    memGet (m.filter (fun c => p c.1)) k = if p k then memGet m k else none := by
  induction m with
  | nil => simp [memGet]
  | cons c m ih =>
    obtain ⟨a, b⟩ := c
    by_cases hp : p a <;> simp only [List.filter_cons, hp, if_true, memGet] <;> by_cases ha : a = k
    · subst ha; simp [hp]
    · simp [ha, ih]
    · subst ha; simp [hp, ih]
    · simp [ha, ih]

/-- A byte read after a write: the byte written there, else the byte there before. -/
theorem memGet_memWrite (m : Mem) (a : Nat) (bs : List Byte) (k : Nat) :
    memGet (memWrite m a bs) k = if a ≤ k ∧ k < a + bs.length then bs[k - a]? else memGet m k := by
  unfold memWrite
  rw [memGet_append, memGet_append, memGet_filter (fun x => decide (x < a)), memGet_cellsFrom,
    memGet_filter (fun x => decide (a + bs.length ≤ x))]
  by_cases h1 : a ≤ k
  · by_cases h2 : k < a + bs.length
    · have hb : bs[k - a]? = some (bs[k - a]'(by omega)) := List.getElem?_eq_getElem (by omega)
      simp [h1, h2, Nat.not_lt.mpr h1, hb]
    · have hb : bs[k - a]? = none := List.getElem?_eq_none (by omega)
      simp [h1, h2, Nat.not_lt.mpr h1, hb, Nat.not_lt.mp h2]
  · have h3 : k < a := by omega
    have h4 : ¬ a + bs.length ≤ k := by omega
    simp [h1, h3, h4]

theorem memGet_filter_ne (d : Nat → Byte) (a : Nat) (bs : List Byte) (k : Nat) :
    memGet ((cellsFrom a bs).filter (fun c => c.2 != d c.1)) k
      = if a ≤ k then (bs[k - a]?).filter (fun b => b != d k) else none := by
  induction bs generalizing a with
  | nil => simp [cellsFrom, memGet]
  | cons b bs ih =>
    simp only [cellsFrom, List.filter_cons]
    by_cases hk : a = k
    · subst hk
      by_cases hb : (b != d a) = true
      · simp [hb, memGet, Option.filter]
      · simp [hb, ih, Option.filter]
    · have e : a ≤ k → k - a = (k - (a + 1)) + 1 := by omega
      have key : (if a + 1 ≤ k then (bs[k - (a + 1)]?).filter (fun b => b != d k) else none)
          = if a ≤ k then ((b :: bs)[k - a]?).filter (fun b => b != d k) else none := by
        by_cases h' : a ≤ k
        · rw [if_pos h', if_pos (by omega : a + 1 ≤ k), e h', List.getElem?_cons_succ]
        · rw [if_neg h', if_neg (by omega)]
      split
      · simp only [memGet, if_neg hk, ih, key]
      · rw [ih, key]

/-- A byte of a space with defaults read after a write. -/
theorem memGet_memWriteOver (d : Nat → Byte) (m : Mem) (a : Nat) (bs : List Byte) (k : Nat) :
    (memGet (memWriteOver d m a bs) k).getD (d k)
      = if a ≤ k ∧ k < a + bs.length then (bs[k - a]?).getD (d k) else (memGet m k).getD (d k) := by
  unfold memWriteOver
  rw [memGet_append, memGet_append, memGet_filter (fun x => decide (x < a)), memGet_filter_ne,
    memGet_filter (fun x => decide (a + bs.length ≤ x))]
  by_cases h1 : a ≤ k
  · by_cases h2 : k < a + bs.length
    · have hb : bs[k - a]? = some (bs[k - a]'(by omega)) := List.getElem?_eq_getElem (by omega)
      by_cases hd : bs[k - a]'(by omega) = d k
      · simp [h1, h2, Nat.not_lt.mpr h1, Nat.not_le.mpr h2, hb, hd, Option.filter]
      · simp [h1, h2, Nat.not_lt.mpr h1, Nat.not_le.mpr h2, hb, hd, Option.filter]
    · have hb : bs[k - a]? = none := List.getElem?_eq_none (by omega)
      simp [h1, h2, Nat.not_lt.mpr h1, hb, Nat.not_lt.mp h2]
  · have h3 : k < a := by omega
    have h4 : ¬ a + bs.length ≤ k := by omega
    simp [h1, h3, h4]

/-- A byte of a space read after a write. -/
theorem byteOf_memWrite (sp : Space) (ep : Nat) (m : Mem) (a : Nat) (bs : List Byte) (k : Nat) :
    byteOf sp ep (memWrite m a bs) k = if h : a ≤ k ∧ k < a + bs.length then bs[k - a] else byteOf sp ep m k := by
  unfold byteOf
  rw [memGet_memWrite]
  by_cases h : a ≤ k ∧ k < a + bs.length
  · have hb : bs[k - a]? = some (bs[k - a]'(by omega)) := List.getElem?_eq_getElem (by omega)
    simp [h, hb]
  · simp [h]

/-- A byte outside a write reads as before. -/
theorem byteOf_memWrite_out (sp : Space) (ep : Nat) (m : Mem) (a : Nat) (bs : List Byte) {k : Nat}
    (h : k < a ∨ a + bs.length ≤ k) : byteOf sp ep (memWrite m a bs) k = byteOf sp ep m k := by
  rw [byteOf_memWrite, dif_neg (by omega)]

/-- A byte inside a write reads as written. -/
theorem byteOf_memWrite_in (sp : Space) (ep : Nat) (m : Mem) (a : Nat) (bs : List Byte) {i : Nat} (h : i < bs.length) :
    byteOf sp ep (memWrite m a bs) (a + i) = bs[i] := by
  rw [byteOf_memWrite, dif_pos (by omega)]
  simp

theorem bytesOf_length (sp : Space) (ep : Nat) (m : Mem) (a n : Nat) : (bytesOf sp ep m a n).length = n := by
  simp [bytesOf]

/-- A write is read back whole. -/
theorem bytesOf_memWrite (sp : Space) (ep : Nat) (m : Mem) (a : Nat) (bs : List Byte) :
    bytesOf sp ep (memWrite m a bs) a bs.length = bs := by
  apply List.ext_getElem
  · simp [bytesOf]
  · intro i h1 h2
    simp only [bytesOf, List.getElem_map, List.getElem_range]
    exact byteOf_memWrite_in sp ep m a bs h2

/-! ## The canonical form -/

theorem memRises_mono {lo lo' : Nat} {m : Mem} (h : memRises lo m = true) (hl : lo' ≤ lo) : memRises lo' m = true := by
  cases m with
  | nil => rfl
  | cons c m =>
    obtain ⟨a, b⟩ := c
    simp only [memRises, Bool.and_eq_true, decide_eq_true_eq] at h ⊢
    exact ⟨by omega, h.2⟩

theorem memRises_filter {lo : Nat} {m : Mem} (p : Host.Cell → Bool) (h : memRises lo m = true) :
    memRises lo (m.filter p) = true := by
  induction m generalizing lo with
  | nil => rfl
  | cons c m ih =>
    obtain ⟨a, b⟩ := c
    simp only [memRises, Bool.and_eq_true, decide_eq_true_eq] at h
    rw [List.filter_cons]
    split
    · simp only [memRises, Bool.and_eq_true, decide_eq_true_eq]
      exact ⟨h.1, ih h.2⟩
    · exact ih (memRises_mono h.2 (by omega))

/-- A rising list above another: their concatenation rises. -/
theorem memRises_append {lo mid : Nat} {m n : Mem} (hm : memRises lo m = true) (hlt : ∀ c ∈ m, c.1 < mid)
    (hn : memRises mid n = true) (hl : lo ≤ mid) : memRises lo (m ++ n) = true := by
  induction m generalizing lo with
  | nil => exact memRises_mono hn hl
  | cons c m ih =>
    obtain ⟨a, b⟩ := c
    simp only [memRises, Bool.and_eq_true, decide_eq_true_eq, List.cons_append] at hm ⊢
    have ha : a < mid := hlt (a, b) (List.mem_cons_self ..)
    exact ⟨hm.1, ih hm.2 (fun c hc => hlt c (List.mem_cons_of_mem _ hc)) (by omega)⟩

theorem memRises_cellsFrom (a : Nat) (bs : List Byte) : memRises a (cellsFrom a bs) = true := by
  induction bs generalizing a with
  | nil => rfl
  | cons b bs ih => simp [cellsFrom, memRises, ih]

theorem mem_cellsFrom {a : Nat} {bs : List Byte} {c : Host.Cell} (h : c ∈ cellsFrom a bs) : a ≤ c.1 ∧ c.1 < a + bs.length := by
  induction bs generalizing a with
  | nil => cases h
  | cons b bs ih =>
    simp only [cellsFrom, List.mem_cons] at h
    rcases h with rfl | h
    · simp
    · have := ih h
      simp only [List.length_cons]
      omega

theorem memRises_above {lo k : Nat} {m : Mem} (h : memRises lo m = true) :
    memRises k (m.filter (fun c => decide (k ≤ c.1))) = true := by
  induction m generalizing lo with
  | nil => rfl
  | cons c m ih =>
    obtain ⟨a, b⟩ := c
    simp only [memRises, Bool.and_eq_true, decide_eq_true_eq] at h
    rw [List.filter_cons]
    split
    · rename_i hk
      simp only [decide_eq_true_eq] at hk
      simp only [memRises, Bool.and_eq_true, decide_eq_true_eq]
      exact ⟨hk, memRises_filter _ h.2⟩
    · exact ih h.2

/-- The three parts of a write rise together, whatever cells of its own the write keeps. -/
theorem memRises_threeParts {m c : Mem} {a n : Nat} (h : memWf m = true) (hc : memRises a c = true)
    (hb : ∀ x ∈ c, x.1 < a + n) :
    memRises 0 (m.filter (fun c => decide (c.1 < a)) ++ c ++ m.filter (fun c => decide (a + n ≤ c.1))) = true := by
  rw [List.append_assoc]
  refine memRises_append (mid := a) (memRises_filter _ h) ?_ ?_ (by omega)
  · intro x hx
    simpa using (List.mem_filter.mp hx).2
  · exact memRises_append hc hb (memRises_above h) (by omega)

/-- A write keeps the canonical form. -/
theorem memWf_memWrite {m : Mem} (h : memWf m = true) (a : Nat) (bs : List Byte) : memWf (memWrite m a bs) = true :=
  memRises_threeParts h (memRises_cellsFrom a bs) (fun _ hx => (mem_cellsFrom hx).2)

/-- A write over defaults keeps the canonical form. -/
theorem memWfOver_memWriteOver {d : Nat → Byte} {m : Mem} (h : memWfOver d m = true) (a : Nat) (bs : List Byte) :
    memWfOver d (memWriteOver d m a bs) = true := by
  simp only [memWfOver, Bool.and_eq_true, List.all_eq_true] at h ⊢
  constructor
  · exact memRises_threeParts h.1 (memRises_filter _ (memRises_cellsFrom a bs))
      (fun x hx => (mem_cellsFrom (List.mem_filter.mp hx).1).2)
  · intro x hx
    simp only [memWriteOver, List.append_assoc, List.mem_append, List.mem_filter] at hx
    rcases hx with hx | hx | hx
    · exact h.2 x hx.1
    · exact hx.2
    · exact h.2 x hx.1

/-! ## The reads of the state -/

/-- A byte of packet memory after PmaWrite within packet memory. -/
theorem pmaByte_pmaWrite (s : State) (off : Nat) (bs : List Byte) (h : off + bs.length ≤ s.cfg.pmaSize) (k : Nat) :
    pmaByte (pmaWrite off bs s) k = if h : off ≤ k ∧ k < off + bs.length then bs[k - off] else pmaByte s k := by
  unfold pmaWrite
  rw [if_pos h]
  exact byteOf_memWrite .pma s.epoch s.pma off bs k

/-- A byte of the storage after a block has been written. -/
theorem storageByte_setStorageBlock (s : State) (b : Nat) (bs : List Byte) (k : Nat) :
    storageByte (setStorageBlock b bs s) k
      = if 512 * b ≤ k ∧ k < 512 * b + bs.length then (bs[k - 512 * b]?).getD (storageInit s.cfg k) else storageByte s k :=
  memGet_memWriteOver (storageInit s.cfg) s.blocks (512 * b) bs k

/-- The memory of the reset state is canonical. -/
theorem reset_memory_canonical (c : Config) :
    memWf (State.powerOn c).pma = true ∧ memWf (State.powerOn c).app = true ∧ memWf (State.powerOn c).ctl.scratch = true
      ∧ memWf (State.powerOn c).scsi.work = true ∧ memWf (State.powerOn c).bot.cbwBuf = true
      ∧ memWf (State.powerOn c).bot.cswBuf = true ∧ memWfOver (storageInit c) (State.powerOn c).blocks = true :=
  ⟨rfl, rfl, rfl, rfl, rfl, rfl, rfl⟩

end Sys2Proof.Machine
end

