-- ==== Sys2Proof/Laws/Engine.lean ====
section
/-!
SUPPORT. What each operation of the allocator and the endpoint engine does, said once: a claim cites these and unfolds none of them.
-/

namespace Sys2Proof.Machine

/-! ## Addresses and checks -/

theorem ctlIn_ne_ctlOut : ctlIn ≠ ctlOut := by decide

theorem checkOpen_usable {ep : EpAddr} {s : State} (h : EpUsable ep s) : checkOpen ep s = none := by
  obtain ⟨-, hn, ho⟩ := h
  simp [checkOpen, epExists, hn, ho]

/-- The faults check_open raises, in its order. -/
theorem checkOpen_cases (ep : EpAddr) (s : State) :
    (s.cfg.nEp ≤ ep.num.toNat ∧ checkOpen ep s = some .badOperand)
    ∨ (ep.num.toNat < s.cfg.nEp ∧ (s.ep ep).isOpen = false ∧ checkOpen ep s = some .epNotOpen)
    ∨ (ep.num.toNat < s.cfg.nEp ∧ (s.ep ep).isOpen = true ∧ checkOpen ep s = none) := by
  by_cases hn : ep.num.toNat < s.cfg.nEp
  · cases ho : (s.ep ep).isOpen <;> simp [checkOpen, epExists, hn, ho]
  · simp [checkOpen, epExists, hn, Nat.not_lt.mp hn]

/-- What an operation with checks can do: raise the first failing check's fault, or run. -/
theorem withChecks_cases (cs : List (Option FaultReason)) (f : State → State) (s : State) :
    (∃ r, some r ∈ cs ∧ withChecks cs f s = s.raise r) ∨ ((∀ c ∈ cs, c = none) ∧ withChecks cs f s = f s) := by
  induction cs with
  | nil => exact .inr ⟨by simp, rfl⟩
  | cons c cs ih =>
    cases c with
    | some r => exact .inl ⟨r, by simp, rfl⟩
    | none =>
      rcases ih with ⟨r, hr, h⟩ | ⟨hc, h⟩
      · exact .inl ⟨r, by simp [hr], h⟩
      · exact .inr ⟨by simpa using hc, h⟩

theorem withChecks_pass {cs : List (Option FaultReason)} (h : ∀ c ∈ cs, c = none) (f : State → State) (s : State) :
    withChecks cs f s = f s := by
  induction cs with
  | nil => rfl
  | cons c cs ih =>
    have hc : c = none := h c (by simp)
    subst hc
    exact ih (fun c hc => h c (by simp [hc]))

/-! ## Allocation -/

/-- PMA_ALLOC hands out the next bytes, or faults and hands out none. -/
theorem pmaAlloc_cases (size : Nat) (s : State) :
    (s.cfg.pmaSize < s.pmaNext + size ∧ pmaAlloc size s = s.raise .pmaOverflow)
    ∨ (s.pmaNext + size ≤ s.cfg.pmaSize ∧ pmaAlloc size s = s.setPmaNext (s.pmaNext + size)) := by
  by_cases h : s.cfg.pmaSize < s.pmaNext + size
  · exact .inl ⟨h, by simp [pmaAlloc, h]⟩
  · exact .inr ⟨by omega, by simp [pmaAlloc, h]⟩

theorem pmaAlloc_fits {size : Nat} {s : State} (h : s.pmaNext + size ≤ s.cfg.pmaSize) :
    pmaAlloc size s = s.setPmaNext (s.pmaNext + size) := by
  rw [pmaAlloc, if_neg (by omega)]

/-! ## Writing packet memory -/

theorem pmaWrite_fits {off : Nat} {bs : List Byte} {s : State} (h : off + bs.length ≤ s.cfg.pmaSize) :
    pmaWrite off bs s = s.modPma (fun m => memWrite m off bs) := by
  rw [pmaWrite, if_pos h]

/-- PmaWrite writes, or faults outside packet memory (20_memory R71). -/
theorem pmaWrite_cases (off : Nat) (bs : List Byte) (s : State) :
    pmaWrite off bs s = s.modPma (fun m => memWrite m off bs) ∨ pmaWrite off bs s = s.raise .pmaRange := by
  unfold pmaWrite
  split <;> simp

/-- MemWrite writes the buffer's memory alone, or faults where the buffer cannot be written (20_memory R72). -/
theorem bufWrite_only (b : BufRef) (off : Nat) (bs : List Byte) (s : State) :
    bufWrite b off bs s = s.modCtl (fun c => { c with scratch := memWrite c.scratch (off + b.off.toNat) bs })
    ∨ bufWrite b off bs s = s.modScsi (fun c => { c with work := memWrite c.work (off + b.off.toNat) bs })
    ∨ bufWrite b off bs s = s.modBot (fun c => { c with cbwBuf := memWrite c.cbwBuf (off + b.off.toNat) bs })
    ∨ bufWrite b off bs s = s.modBot (fun c => { c with cswBuf := memWrite c.cswBuf (off + b.off.toNat) bs })
    ∨ (∃ a, bufWrite b off bs s = s.modApp (fun m => memWrite m a bs))
    ∨ bufWrite b off bs s = s ∨ bufWrite b off bs s = s.raise .bufOverrun := by
  obtain ⟨array, o⟩ := b
  cases array with
  | scratch => exact .inl rfl
  | work => exact .inr (.inl rfl)
  | cbw => exact .inr (.inr (.inl rfl))
  | csw => exact .inr (.inr (.inr (.inl rfl)))
  | app a => exact .inr (.inr (.inr (.inr (.inl ⟨_, rfl⟩))))
  | none | maxLun | deviceDesc | configDesc =>
    refine .inr (.inr (.inr (.inr (.inr ?_))))
    simp only [bufWrite, arrayWrite]
    split <;> simp

/-! ## Opening -/

/-- The packet memory EP_OPEN takes (R152). -/
abbrev openTakes (ep : EpAddr) (mps : Nat) (s : State) : Nat := if isDbuf s.cfg ep then 2 * mps else mps

/-- EP_OPEN's effect where its operands and its regions fit (R152). -/
theorem epOpen_spec {ep : EpAddr} {ty : EpType} {mps : Nat} {cb : CallbackId} {s : State} (hf : s.fault = none)
    (hn : ep.num.toNat < s.cfg.nEp) (h1 : 1 ≤ mps) (h2 : mps ≤ 1023) (hp : s.pmaNext + openTakes ep mps s ≤ s.cfg.pmaSize) :
    (epOpen ep ty mps cb s).fault = none
      ∧ (epOpen ep ty mps cb s).ep ep = { s.ep ep with
          isOpen := true, type := ty, mps := mps, callback := some cb, stalled := false, active := false,
          remaining := 0, transferred := 0, inflight := 0, dbuf := isDbuf s.cfg ep, off0 := s.pmaNext,
          off1 := if isDbuf s.cfg ep then s.pmaNext + mps else (s.ep ep).off1 }
      ∧ (epOpen ep ty mps cb s).hw ep = ⟨openStat ep ty, false, 0, false, false, false⟩
      ∧ (epOpen ep ty mps cb s).pmaNext = s.pmaNext + openTakes ep mps s
      ∧ epOpen ep ty mps cb s = { s with eps := (epOpen ep ty mps cb s).eps, hws := (epOpen ep ty mps cb s).hws,
                                         pmaNext := (epOpen ep ty mps cb s).pmaNext }
      ∧ OtherEpsKept [ep] s (epOpen ep ty mps cb s) := by
  have hg : (!epExists s.cfg ep || decide (mps = 0) || decide (1023 < mps)) = false := by
    have e1 : decide (mps = 0) = false := by simp; omega
    have e2 : decide (1023 < mps) = false := by simp; omega
    simp only [epExists, hn, decide_true, Bool.not_true, e1, e2, Bool.or_false]
  have hfirst : s.pmaNext + mps ≤ s.cfg.pmaSize := by
    unfold openTakes at hp
    split at hp <;> omega
  have key : epOpen ep ty mps cb s = openRecord ep ty mps cb (allocSecond ep mps
      (((s.modEp ep (fun e => { e with dbuf := isDbuf s.cfg ep })).setPmaNext (s.pmaNext + mps)).modEp ep
        (fun e => { e with off0 := s.pmaNext }))) := by
    unfold epOpen
    simp only [hg, Bool.false_eq_true, if_false]
    rw [andThen_running (s := s.modEp ep _) (by simpa using hf)]
    simp only [allocFirst]
    rw [pmaAlloc_fits (by simpa using hfirst), andThen_running (s := State.setPmaNext _ _) (by simpa using hf),
      andThen_running (s := State.modEp _ _ _) (by simpa using hf), andThen_running]
    · rfl
    · unfold allocSecond
      split
      next hd =>
        have hp2 : s.pmaNext + 2 * mps ≤ s.cfg.pmaSize := by
          have : isDbuf s.cfg ep = true := by simpa using hd
          simpa [openTakes, this] using hp
        rw [pmaAlloc_fits (by simp; omega), andThen_running (by simpa using hf)]
        simpa using hf
      next => simpa using hf
  cases hd : isDbuf s.cfg ep with
  | false =>
    rw [key, allocSecond, if_neg (by simp [hd])]
    refine ⟨by simpa [openRecord] using hf, ?_, ?_, ?_, rfl, ?_⟩
    · simp [openRecord, hd]
    · simp [openRecord]
    · simp [openRecord, hd]
    · intro a ha
      have hne : a ≠ ep := by simpa using ha
      simp [openRecord, ep_modEp_ne _ _ hne, hw_modHw_ne _ _ hne]
  | true =>
    have hp2 : s.pmaNext + 2 * mps ≤ s.cfg.pmaSize := by simpa [openTakes, hd] using hp
    rw [key, allocSecond, if_pos (by simp [hd]), pmaAlloc_fits (by simp; omega), andThen_running (by simpa using hf)]
    refine ⟨by simpa [openRecord] using hf, ?_, ?_, ?_, rfl, ?_⟩
    · simp [openRecord, hd]
    · simp [openRecord]
    · simp [openRecord, openTakes, hd]
      omega
    · intro a ha
      have hne : a ≠ ep := by simpa using ha
      simp [openRecord, ep_modEp_ne _ _ hne, hw_modHw_ne _ _ hne]

/-- Everything EP_OPEN can do (R152): fault on its operands, fault on an allocation, or open the endpoint as `epOpen_spec` says. -/
theorem epOpen_cases (ep : EpAddr) (ty : EpType) (mps : Nat) (cb : CallbackId) (s : State) :
    epOpen ep ty mps cb s = s.raise .badOperand
    ∨ ((epOpen ep ty mps cb s).fault ≠ none
        ∧ (epOpen ep ty mps cb s) = { s with eps := (epOpen ep ty mps cb s).eps, pmaNext := (epOpen ep ty mps cb s).pmaNext,
                                             fault := (epOpen ep ty mps cb s).fault }
        ∧ s.pmaNext ≤ (epOpen ep ty mps cb s).pmaNext
        ∧ ((epOpen ep ty mps cb s).pmaNext = s.pmaNext ∨ (epOpen ep ty mps cb s).pmaNext ≤ s.cfg.pmaSize))
    ∨ (s.fault = none ∧ ep.num.toNat < s.cfg.nEp ∧ 1 ≤ mps ∧ mps ≤ 1023 ∧ s.pmaNext + openTakes ep mps s ≤ s.cfg.pmaSize) := by
  by_cases hg : (!epExists s.cfg ep || decide (mps = 0) || decide (1023 < mps)) = true
  · exact .inl (by unfold epOpen; rw [if_pos hg])
  right
  have hops : ep.num.toNat < s.cfg.nEp ∧ 1 ≤ mps ∧ mps ≤ 1023 := by
    simp [epExists] at hg
    omega
  cases hf : s.fault with
  | some r =>
    left
    have key : epOpen ep ty mps cb s = s.modEp ep (fun e => { e with dbuf := isDbuf s.cfg ep }) := by
      unfold epOpen
      rw [if_neg hg]
      simp [hf]
    rw [key]
    exact ⟨by simp [hf], rfl, Nat.le_refl _, .inl rfl⟩
  | none =>
    by_cases hp : s.pmaNext + openTakes ep mps s ≤ s.cfg.pmaSize
    · exact .inr ⟨rfl, hops.1, hops.2.1, hops.2.2, hp⟩
    left
    have first : epOpen ep ty mps cb s = ((allocFirst ep mps (s.modEp ep (fun e => { e with dbuf := isDbuf s.cfg ep }))).andThen
        (allocSecond ep mps)).andThen (openRecord ep ty mps cb) := by
      unfold epOpen
      rw [if_neg hg, andThen_running (s := s.modEp ep _) (by simpa using hf)]
    by_cases h1 : s.pmaNext + mps ≤ s.cfg.pmaSize
    · have hd : isDbuf s.cfg ep = true := by
        by_contra hn
        simp [openTakes, hn] at hp
        omega
      have h2 : s.cfg.pmaSize < s.pmaNext + mps + mps := by
        simp [openTakes, hd] at hp
        omega
      have second : allocSecond ep mps (((s.modEp ep (fun e => { e with dbuf := isDbuf s.cfg ep })).setPmaNext
          (s.pmaNext + mps)).modEp ep (fun e => { e with off0 := s.pmaNext }))
          = (((s.modEp ep (fun e => { e with dbuf := isDbuf s.cfg ep })).setPmaNext
          (s.pmaNext + mps)).modEp ep (fun e => { e with off0 := s.pmaNext })).raise .pmaOverflow := by
        unfold allocSecond pmaAlloc
        simp only [ep_modEp_same, setPmaNext_ep, hd, if_true, modEp_cfg, setPmaNext_cfg, modEp_pmaNext, setPmaNext_pmaNext, h2]
        rw [raise_eq]
        rfl
      have all : epOpen ep ty mps cb s = (((s.modEp ep (fun e => { e with dbuf := isDbuf s.cfg ep })).setPmaNext
          (s.pmaNext + mps)).modEp ep (fun e => { e with off0 := s.pmaNext })).raise .pmaOverflow := by
        rw [first]
        unfold allocFirst
        rw [pmaAlloc_fits (by simpa using h1), andThen_running (s := State.setPmaNext _ _) (by simpa using hf),
          andThen_running (s := State.modEp _ _ _) (by simpa using hf)]
        exact (congrArg (fun u => State.andThen u (openRecord ep ty mps cb)) second).trans
          (andThen_faulted (r := .pmaOverflow) (by simp [hf]) _)
      rw [all]
      exact ⟨by simp, by rw [raise_eq]; rfl, by simp, .inr (by simpa using h1)⟩
    · have all : epOpen ep ty mps cb s = (s.modEp ep (fun e => { e with dbuf := isDbuf s.cfg ep })).raise .pmaOverflow := by
        rw [first]
        unfold allocFirst
        rw [show pmaAlloc mps (s.modEp ep (fun e => { e with dbuf := isDbuf s.cfg ep }))
            = (s.modEp ep (fun e => { e with dbuf := isDbuf s.cfg ep })).raise .pmaOverflow by
            unfold pmaAlloc; rw [if_pos (by simp; omega)]]
        rw [andThen_faulted (s := State.raise _ _) (r := .pmaOverflow) (by simp [hf]),
          andThen_faulted (s := State.raise _ _) (r := .pmaOverflow) (by simp [hf]),
          andThen_faulted (s := State.raise _ _) (r := .pmaOverflow) (by simp [hf])]
      rw [all]
      exact ⟨by simp, by rw [raise_eq]; rfl, by simp, .inl (by simp)⟩

/-! ## Posting transfers -/

theorem loadRegion_eq (ep : EpAddr) (s : State) : loadRegion (s.ep ep) (s.hw ep) = inRegion ep s := by
  unfold loadRegion inRegion
  cases (s.ep ep).dbuf <;> cases (s.hw ep).bufSel <;> rfl

/-- Arming an endpoint writes its handshake alone. -/
theorem arm_eq (ep : EpAddr) (s : State) : arm ep s = s.modHw ep (fun h => { h with stat := armedStat ep s }) := by
  unfold arm armedStat
  split
  · exact (modHw_self rfl).symm
  · rfl

theorem bufRead_length (s : State) (b : BufRef) (off n : Nat) : (bufRead s b off n).length = n := by simp [bufRead]

/-- An EP_READ that passes its checks posts the transfer and arms the endpoint. -/
theorem epRead_posts {ep : EpAddr} {buf : BufRef} {len : Nat} {s : State} (h : EpUsable ep s) (hd : ep.isIn = false)
    (hf : writeFits s.cfg buf len = true) :
    epRead ep buf len s = arm ep (postTransfer ep buf len s) := by
  unfold epRead
  apply withChecks_pass
  simp [checkOpen_usable h, checkDir, hd, checkFits, hf]

/-- An EP_WRITE that passes its checks posts the transfer and loads its first packet. -/
theorem epWrite_posts {ep : EpAddr} {buf : BufRef} {len : Nat} {s : State} (h : EpUsable ep s) (hd : ep.isIn = true)
    (hf : readFits s.cfg buf len = true) :
    epWrite ep buf len s = loadIn ep (postTransfer ep buf len s) := by
  unfold epWrite
  apply withChecks_pass
  simp [checkOpen_usable h, checkDir, hd, checkFits, hf]

/-- EP_READ's effect (R154). -/
theorem epRead_spec {ep : EpAddr} {buf : BufRef} {len : Nat} {s : State} (h : EpUsable ep s) (hd : ep.isIn = false)
    (hf : writeFits s.cfg buf len = true) :
    ReadPosted ep buf len s (epRead ep buf len s) ∧ (epRead ep buf len s).fault = none
      ∧ OnlyEps [ep] s (epRead ep buf len s) := by
  rw [epRead_posts h hd hf, arm_eq]
  refine ⟨⟨?_, ?_⟩, h.1, ⟨rfl, ?_, ⟨fun _ => rfl, fun b i => by cases b <;> rfl, fun _ => rfl⟩⟩⟩
  · simp [postTransfer]
  · simp [postTransfer, armedStat]
  · intro a ha
    have hne : a ≠ ep := by simpa using ha
    simp [postTransfer, ep_modEp_ne _ _ hne, hw_modHw_ne _ _ hne]

/-- The size of the next IN packet (R161). -/
abbrev nextSize (ep : EpAddr) (s : State) : Nat := min (s.ep ep).remaining (s.ep ep).mps

/-- The bytes of the next IN packet (R161). -/
abbrev nextPacket (ep : EpAddr) (s : State) : List Byte := bufRead s (s.ep ep).buf (s.ep ep).transferred (nextSize ep s)

/-- load_in_packet where its packet lies in packet memory (R161). -/
theorem loadIn_fits {ep : EpAddr} {s : State} (hf : s.fault = none)
    (hfit : inRegion ep s + (nextPacket ep s).length ≤ s.cfg.pmaSize) :
    loadIn ep s =
      ((s.modPma (fun m => memWrite m (inRegion ep s) (nextPacket ep s))).modHw ep
        (fun h => { h with count := nextSize ep s, stat := armedStat ep s })).modEp ep
        (fun e => { e with inflight := nextSize ep s }) := by
  unfold loadIn
  simp only [loadRegion_eq, pmaWrite_fits hfit]
  rw [andThen_running (by simpa using hf), arm_eq]
  simp [nextSize, nextPacket, armedStat, State.modHw, State.modEp, State.modPma, State.hw, State.ep]
  rfl

/-- load_in_packet (R161). -/
theorem loadIn_eq {ep : EpAddr} {s : State} (hf : s.fault = none) (h : RegionFits ep s) :
    loadIn ep s =
      ((s.modPma (fun m => memWrite m (inRegion ep s) (nextPacket ep s))).modHw ep
        (fun h => { h with count := nextSize ep s, stat := armedStat ep s })).modEp ep
        (fun e => { e with inflight := nextSize ep s }) := by
  apply loadIn_fits hf
  rw [bufRead_length]
  have : nextSize ep s ≤ (s.ep ep).mps := Nat.min_le_right ..
  unfold RegionFits at h
  omega

/-- Everything load_in_packet can do (R161): fault on its region, or load; in a step already faulted only packet memory is written. -/
theorem loadIn_cases (ep : EpAddr) (s : State) :
    loadIn ep s = s.raise .pmaRange
    ∨ (s.fault ≠ none ∧ loadIn ep s = s.modPma (fun m => memWrite m (inRegion ep s) (nextPacket ep s)))
    ∨ (s.fault = none ∧ loadIn ep s =
        ((s.modPma (fun m => memWrite m (inRegion ep s) (nextPacket ep s))).modHw ep
          (fun h => { h with count := nextSize ep s, stat := armedStat ep s })).modEp ep
          (fun e => { e with inflight := nextSize ep s })) := by
  by_cases hfit : inRegion ep s + (nextPacket ep s).length ≤ s.cfg.pmaSize
  · cases hf : s.fault with
    | none => exact .inr (.inr ⟨rfl, loadIn_fits hf hfit⟩)
    | some r =>
      refine .inr (.inl ⟨by simp, ?_⟩)
      unfold loadIn
      simp only [loadRegion_eq, pmaWrite_fits hfit]
      rw [andThen_faulted (r := r) (by simpa using hf)]
  · left
    unfold loadIn
    simp only [loadRegion_eq, pmaWrite, if_neg hfit]
    rw [andThen_faulted (r := s.fault.getD .pmaRange) (by simp)]

/-- EP_WRITE's effect (R155, R161). -/
theorem epWrite_spec {ep : EpAddr} {buf : BufRef} {len : Nat} {s : State} (h : EpUsable ep s) (hd : ep.isIn = true)
    (hf : readFits s.cfg buf len = true) (hr : RegionFits ep s) :
    WritePosted ep buf len s (epWrite ep buf len s) ∧ (epWrite ep buf len s).fault = none
      ∧ (epWrite ep buf len s)
          = { s with eps := (epWrite ep buf len s).eps, hws := (epWrite ep buf len s).hws, pma := (epWrite ep buf len s).pma }
      ∧ OtherEpsKept [ep] s (epWrite ep buf len s) := by
  have hr' : RegionFits ep (postTransfer ep buf len s) := by
    simpa [RegionFits, inRegion, postTransfer] using hr
  have hreg : inRegion ep (postTransfer ep buf len s) = inRegion ep s := by simp [inRegion, postTransfer]
  have hsize : nextSize ep (postTransfer ep buf len s) = min len (s.ep ep).mps := by simp [nextSize, postTransfer]
  have hlen : (nextPacket ep (postTransfer ep buf len s)).length = min len (s.ep ep).mps := by
    rw [nextPacket, bufRead_length, hsize]
  rw [epWrite_posts h hd hf, loadIn_eq (s := postTransfer ep buf len s) h.1 hr', hreg]
  refine ⟨⟨?_, ?_, ?_, ?_⟩, h.1, rfl, ?_⟩
  · simp [postTransfer, nextSize]
  · simp [postTransfer, nextSize, armedStat]
  · intro i hi
    show byteOf .pma s.epoch (memWrite s.pma _ _) _ = _
    rw [byteOf_memWrite_in _ _ _ _ _ (by rw [hlen]; exact hi)]
    simp only [nextPacket, bufRead, List.getElem_map, List.getElem_range]
    simp only [postTransfer, modHw_ep, ep_modEp_same, Nat.zero_add]
    cases buf <;> rfl
  · intro a ha
    show byteOf .pma s.epoch (memWrite s.pma _ _) a = byteOf .pma s.epoch s.pma a
    apply byteOf_memWrite_out
    rw [hlen]
    exact ha
  · intro a ha
    have hne : a ≠ ep := by simpa using ha
    simp [postTransfer, ep_modEp_ne _ _ hne, hw_modHw_ne _ _ hne]

/-! ## Stall, destall, close -/

/-- EP_STALL's effect (R157). -/
theorem epStall_eq {ep : EpAddr} {s : State} (h : EpUsable ep s) :
    epStall ep s = (s.modEp ep (fun e => { e with stalled := true, active := false })).modHw ep
      (fun h => { h with stat := .stall, ctr := h.ctr && h.setup }) := by
  unfold epStall
  apply withChecks_pass
  simp [checkOpen_usable h]

theorem epStall_spec {ep : EpAddr} {s : State} (h : EpUsable ep s) :
    StallSet ep s (epStall ep s) ∧ (epStall ep s).fault = none ∧ OnlyEps [ep] s (epStall ep s) := by
  rw [epStall_eq h]
  refine ⟨⟨by simp, by simp⟩, h.1, rfl, ?_, fun _ => rfl, fun b i => by cases b <;> rfl, fun _ => rfl⟩
  intro a ha
  have hne : a ≠ ep := by simpa using ha
  simp [ep_modEp_ne _ _ hne, hw_modHw_ne _ _ hne]

/-- EP_DESTALL's effect (R158). -/
theorem epDestall_eq {ep : EpAddr} {s : State} (h : EpUsable ep s) :
    epDestall ep s = (s.modEp ep (fun e => { e with stalled := false })).modHw ep
      (fun h => { h with dtog := false, stat := if (s.ep ep).stalled then (if (s.ep ep).active then .valid else .nak) else h.stat }) := by
  unfold epDestall
  apply withChecks_pass
  simp [checkOpen_usable h]

/-- EP_CLOSE's effect (R153). -/
theorem epClose_eq {ep : EpAddr} {s : State} (h : EpUsable ep s) :
    epClose ep s = (s.modEp ep closeRecord).modHw ep closeHw := by
  unfold epClose
  apply withChecks_pass
  simp [checkOpen_usable h]

end Sys2Proof.Machine
end

