-- ==== Sys2Proof/Laws/Control.lean ====
section
/-!
SUPPORT. What the control pipe's primitives do, said once: reject, ctl_status, CTL_SEND, CTL_RECEIVE and setup_clear, from a state whose
control session has just been set to `c`.
-/

namespace Sys2Proof.Machine

/-- The state with another control session. -/
abbrev State.withCtl (s : State) (c : Control) : State := s.modCtl (fun _ => c)

theorem controlOpen_withCtl {s : State} (c : Control) (h : ControlOpen s) : ControlOpen (s.withCtl c) := h

theorem controlReady_withCtl {s : State} (c : Control) (h : ControlReady s) : ControlReady (s.withCtl c) := h

theorem ctlIn_usable {s : State} (h : ControlOpen s) : EpUsable ctlIn s := ⟨h.1, h.2.1, h.2.2.2⟩

theorem ctlOut_usable {s : State} (h : ControlOpen s) : EpUsable ctlOut s := ⟨h.1, h.2.1, h.2.2.1⟩

theorem bufByte_withCtl {s : State} {c : Control} {b : BufRef} (h : b.array ≠ .scratch) (i : Nat) :
    bufByte (s.withCtl c) b i = bufByte s b i := by
  obtain ⟨array, o⟩ := b
  cases array <;> first | rfl | exact absurd rfl h

/-- reject (R211). -/
theorem reject_spec {s : State} (c : Control) (h : ControlOpen s) : Rejected c s (reject (s.withCtl c)) := by
  have hin := ctlIn_usable (controlOpen_withCtl c h)
  have h1 := epStall_eq hin
  have hout : EpUsable ctlOut (epStall ctlIn (s.withCtl c)) := by
    rw [h1]
    refine ⟨h.1, h.2.1, ?_⟩
    simp [ep_modEp_ne _ _ ctlIn_ne_ctlOut.symm, h.2.2.1]
  have key : reject (s.withCtl c) = (epStall ctlOut (epStall ctlIn (s.withCtl c))).modCtl
      (fun c => { c with zlpPending := false, ctrlState := .stall }) := by
    unfold reject
    rw [andThen_running (epStall_spec hin).2.1, andThen_running (epStall_spec hout).2.1]
  rw [key, epStall_eq hout, h1]
  refine ⟨⟨rfl, ?_, fun _ => rfl, ?_, fun _ => rfl⟩, ⟨?_, ?_⟩, ⟨?_, ?_⟩, rfl⟩
  · intro a ha
    have hne : a ≠ ctlIn ∧ a ≠ ctlOut := by simpa using ha
    simp [ep_modEp_ne _ _ hne.1, ep_modEp_ne _ _ hne.2, hw_modHw_ne _ _ hne.1, hw_modHw_ne _ _ hne.2]
    exact ⟨rfl, rfl⟩
  · intro b i
    cases b <;> rfl
  · simp [ep_modEp_ne _ _ ctlIn_ne_ctlOut]
  · simp [hw_modHw_ne _ _ ctlIn_ne_ctlOut]
  · simp [ep_modEp_ne _ _ ctlIn_ne_ctlOut.symm]
  · simp [hw_modHw_ne _ _ ctlIn_ne_ctlOut.symm]

/-- ctl_status (R208). -/
theorem ctlStatus_spec {s : State} (c : Control) (h : ControlReady s) : StatusSent c s (ctlStatus (s.withCtl c)) := by
  have hin : EpUsable ctlIn (s.withCtl { c with ctrlState := .statusIn }) := ctlIn_usable h.1
  have hr : RegionFits ctlIn (s.withCtl { c with ctrlState := .statusIn }) := h.2
  obtain ⟨hw, hf, heq, ho⟩ := epWrite_spec (buf := .none) (len := 0) hin rfl rfl hr
  have key : ctlStatus (s.withCtl c) = epWrite ctlIn .none 0 (s.withCtl { c with ctrlState := .statusIn }) := rfl
  have hout := ho ctlOut (by simp [ctlIn_ne_ctlOut.symm])
  rw [key]
  refine ⟨⟨?_, ?_, ?_, ?_⟩, hf, hw, hout.1, hout.2, ?_⟩
  · rw [heq]; rfl
  · intro a ha
    have hne : a ≠ ctlIn ∧ a ≠ ctlOut := by simpa using ha
    exact ho a (by simp [hne.1])
  · intro b i hb
    rw [heq]
    obtain ⟨array, o⟩ := b
    cases array <;> first | rfl | exact absurd rfl hb
  · intro a
    rw [heq]
    rfl
  · rw [heq]
    rfl

/-- The data stage of CTL_SEND (R206). -/
theorem startDataIn_spec {s : State} (c : Control) {buf : BufRef} {n : Nat} (h : ControlReady s)
    (hf : readFits s.cfg buf n = true) :
    DataSent buf (bufRead (s.withCtl c) buf 0 n) c s (startDataIn buf n (s.withCtl c))
      ∧ (startDataIn buf n (s.withCtl c)).ctl.scratch = c.scratch := by
  let c' : Control := { c with zlpPending := zlpNeeded s.cfg c.ctrlLen n, ctrlState := .dataIn }
  have hin : EpUsable ctlIn (s.withCtl c') := ctlIn_usable h.1
  have hr : RegionFits ctlIn (s.withCtl c') := h.2
  obtain ⟨hw, hfl, heq, ho⟩ := epWrite_spec (buf := buf) (len := n) hin rfl hf hr
  have hout0 := ho ctlOut (by simp [ctlIn_ne_ctlOut.symm])
  have hout : EpUsable ctlOut (epWrite ctlIn buf n (s.withCtl c')) := by
    refine ⟨hfl, ?_, ?_⟩
    · rw [heq]; exact h.1.2.1
    · rw [hout0.1]; exact h.1.2.2.1
  obtain ⟨hrd, hfr, hor⟩ := epRead_spec (buf := .none) (len := 0) hout rfl rfl
  have key : startDataIn buf n (s.withCtl c) = epRead ctlOut .none 0 (epWrite ctlIn buf n (s.withCtl c')) := by
    unfold startDataIn
    exact andThen_running hfl _
  generalize ht : epWrite ctlIn buf n (s.withCtl c') = t at *
  generalize hu : epRead ctlOut .none 0 t = u at *
  have hinu := hor.2.1 ctlIn (by simp [ctlIn_ne_ctlOut])
  have hctl : u.ctl = c' := by rw [hor.1, heq]; rfl
  have hbuf : ∀ b i, bufByte u b i = bufByte (s.withCtl c') b i := by
    intro b i
    rw [hor.2.2.2.1, heq]
    cases b <;> rfl
  have hbuf' : ∀ b i, bufByte (s.withCtl c') b i = bufByte (s.withCtl c) b i := fun b i => by cases b <;> rfl
  rw [key]
  refine ⟨⟨⟨?_, ?_, ?_, ?_⟩, hfr, ?_, ?_, ?_, ?_⟩, by rw [hctl]⟩
  · rw [hor.1, heq]; rfl
  · intro a ha
    have hne : a ≠ ctlIn ∧ a ≠ ctlOut := by simpa using ha
    have h1 := ho a (by simp [hne.1])
    have h2 := hor.2.1 a (by simp [hne.2])
    exact ⟨by rw [h2.1, h1.1]; rfl, by rw [h2.2, h1.2]; rfl⟩
  · intro b i hb
    rw [hbuf, bufByte_withCtl hb]
  · intro a
    rw [hor.1, heq]
    rfl
  · rw [bufRead_length]
    obtain ⟨w1, w2, w3, w4⟩ := hw
    refine ⟨by rw [hinu.1, w1]; rfl, by rw [hinu.2, w2]; rfl, ?_, ?_⟩
    · intro i hi
      rw [hbuf]
      rw [hor.2.2.1]
      have := w3 i hi
      rw [show inRegion ctlIn s = inRegion ctlIn (s.withCtl c') from rfl, this, heq]
      cases buf <;> rfl
    · intro a ha
      rw [hor.2.2.1]
      exact w4 a ha
  · exact ⟨by rw [hrd.1, hout0.1]; rfl, by rw [hrd.2, hout0.2]; simp only [armedStat, hout0.1, hout0.2]; rfl⟩
  · rw [bufRead_length]
    simp only [bufRead, hbuf, hbuf']
  · rw [hctl, bufRead_length]
    simp only [c', zlpNeeded]
    cases s.cfg.zlpPolicy <;> simp [Bool.decide_and]

/-- CTL_SEND (R206) while a request is decoded, of the `len` bytes of a buffer. -/
theorem ctlSend_spec {s : State} (c : Control) {buf : BufRef} {len : Nat} (h : ControlReady s) (hc : c.ctrlState = .setup)
    (hf : readFits s.cfg buf (min len c.ctrlLen) = true) :
    (min len c.ctrlLen = 0 → StatusSent c s (ctlSend buf len (s.withCtl c)))
      ∧ (0 < min len c.ctrlLen →
          DataSent buf (bufRead (s.withCtl c) buf 0 (min len c.ctrlLen)) c s (ctlSend buf len (s.withCtl c)))
      ∧ (ctlSend buf len (s.withCtl c)).ctl.scratch = c.scratch := by
  have hs : ¬ (s.withCtl c).ctl.ctrlState ≠ .setup := by simp [hc]
  by_cases hn : min len c.ctrlLen = 0
  · have key : ctlSend buf len (s.withCtl c) = ctlStatus (s.withCtl c) := by
      unfold ctlSend
      rw [if_neg hs, if_pos (by simpa using hn)]
    rw [key]
    refine ⟨fun _ => ctlStatus_spec c h, fun h0 => absurd hn (by omega), ?_⟩
    rw [(ctlStatus_spec c h).2.2.2.2.2]
  · have key : ctlSend buf len (s.withCtl c) = startDataIn buf (min len c.ctrlLen) (s.withCtl c) := by
      unfold ctlSend
      rw [if_neg hs, if_neg (by simpa using hn)]
      rfl
    rw [key]
    obtain ⟨hd, hsc⟩ := startDataIn_spec c h hf
    exact ⟨fun h0 => absurd h0 hn, fun _ => hd, hsc⟩

/-- A response of known bytes sent by CTL_SEND: what the host is answered (R206, 30_encoding R119). -/
theorem ctlSend_answers {s : State} (c : Control) {buf : BufRef} {full : List Byte} (h : ControlReady s)
    (hc : c.ctrlState = .setup) (hf : readFits s.cfg buf (min full.length c.ctrlLen) = true)
    (hb : bufRead (s.withCtl c) buf 0 full.length = full)
    (hs : ∀ i, buf ≠ .scratch ∨ full.length ≤ i → bufByte (s.withCtl c) .scratch i = bufByte s .scratch i) :
    Answered buf full c s (ctlSend buf full.length (s.withCtl c)) := by
  obtain ⟨h0, h1, h2⟩ := ctlSend_spec c h hc hf
  have htake : bufRead (s.withCtl c) buf 0 (min full.length c.ctrlLen) = full.take c.ctrlLen := by
    have hl : ∀ n k, (bufRead (s.withCtl c) buf 0 n).take k = bufRead (s.withCtl c) buf 0 (min n k) := by
      intro n k
      simp only [bufRead, ← List.map_take, List.take_range, Nat.min_comm]
    rw [← hl, hb]
  refine ⟨?_, ?_, ?_⟩
  · intro hne
    rw [← htake]
    apply h1
    have : (full.take c.ctrlLen).length ≠ 0 := by simpa using hne
    simp only [List.length_take] at this
    omega
  · intro he
    have : (full.take c.ctrlLen).length = 0 := by rw [he]; rfl
    simp only [List.length_take] at this
    rw [h2]
    exact h0 (by omega)
  · intro i hi
    rw [← hs i hi]
    show byteOf .scratch _ _ _ = byteOf .scratch _ _ _
    rw [h2]
    have he : (ctlSend buf full.length (s.withCtl c)).epoch = s.epoch := by
      by_cases hn : min full.length c.ctrlLen = 0
      · rw [(h0 hn).1.1]
      · rw [(h1 (by omega)).1.1]
    rw [he]
    rfl

end Sys2Proof.Machine
end

