-- ==== Sys2Proof/Laws/Bot.lean ====
section
/-!
SUPPORT. What the sense ring, the sequencer's primitives and the mass-storage class's life do, said once (42_bot_scsi R261-R263, R266, R269).
-/

namespace Sys2Proof.Machine

/-! ## Endpoint operations in a row -/

/-- An operation that touches one endpoint leaves another as usable as it was. -/
theorem usable_kept {a : EpAddr} {s t : State} (h : EpUsable a s) (hf : t.fault = none) (hc : t.cfg = s.cfg)
    (he : t.ep a = s.ep a) : EpUsable a t := by
  refine ⟨hf, ?_, ?_⟩
  · rw [hc]
    exact h.2.1
  · rw [he]
    exact h.2.2

theorem bulk_ne {c : Config} (h : configWf c = true) : c.botInEp ≠ c.botOutEp := by
  obtain ⟨h1, h2, -⟩ := configWf_bulk h
  intro he
  rw [he, h2] at h1
  exact absurd h1 (by simp)

/-! ## Class life (R261) -/

/-- deinit of the mass-storage class on its open bulk pair. -/
theorem mscDeinit_eq {s : State} (hi : EpUsable s.cfg.botInEp s) (ho : EpUsable s.cfg.botOutEp s)
    (hne : s.cfg.botInEp ≠ s.cfg.botOutEp) :
    mscDeinit s = ((((s.modEp s.cfg.botInEp closeRecord).modHw s.cfg.botInEp closeHw).modEp s.cfg.botOutEp closeRecord).modHw
      s.cfg.botOutEp closeHw).modBot (fun b => { b with state := .idle, zlp := false }) := by
  have ho' : EpUsable s.cfg.botOutEp ((s.modEp s.cfg.botInEp closeRecord).modHw s.cfg.botInEp closeHw) :=
    usable_kept ho hi.1 rfl (by simp [ep_modEp_ne _ _ hne.symm])
  unfold mscDeinit
  rw [epClose_eq hi, andThen_running (s := (s.modEp s.cfg.botInEp closeRecord).modHw s.cfg.botInEp closeHw) hi.1]
  have hc : ((s.modEp s.cfg.botInEp closeRecord).modHw s.cfg.botInEp closeHw).cfg.botOutEp = s.cfg.botOutEp := rfl
  rw [epClose_eq ho', andThen_running (by exact hi.1)]

/-- A CBW read posted (R261). -/
theorem postCbwRead_eq {s : State} (ho : EpUsable s.cfg.botOutEp s) (hd : s.cfg.botOutEp.isIn = false) :
    postCbwRead s = arm s.cfg.botOutEp (postTransfer s.cfg.botOutEp .cbw (cbwReadLen s.cfg) (setBotState .idle s)) := by
  unfold postCbwRead
  exact epRead_posts (s := setBotState .idle s) ho hd (by simp [writeFits, arrayWritable, arraySize, setBotState])

/-- A malformed CBW stalls the bulk pair (R266). -/
theorem cbwReject_eq {s : State} (hi : EpUsable s.cfg.botInEp s) (ho : EpUsable s.cfg.botOutEp s)
    (hne : s.cfg.botInEp ≠ s.cfg.botOutEp) :
    cbwReject s = setBotState .stalled (epStall s.cfg.botOutEp (epStall s.cfg.botInEp s)) := by
  have h1 := epStall_spec hi
  have hu := h1.2.2.1
  have ho' : EpUsable s.cfg.botOutEp (epStall s.cfg.botInEp s) :=
    usable_kept ho h1.2.1 (by rw [hu]) (h1.2.2.2.1 _ (by simp [hne.symm])).1
  unfold cbwReject
  rw [andThen_running h1.2.1, andThen_running (epStall_spec ho').2.1]

/-! ## Sense ring (R262, R263) -/

/-- A push that raises no fault, and the error it belongs to. -/
theorem failWith_eq {e : Sense} {s : State} (hf : s.fault = none) (h : PushAllowed s) :
    failWith e s = s.modScsi (fun c => { sensePushed e c with state := .error }) := by
  have hn : ¬ (s.cfg.senseOverflow = .fault ∧ sensePending (s.modScsi (sensePushed e)).scsi = false) := by
    rintro ⟨h1, h2⟩
    rcases h with h | h
    · rw [h] at h1
      exact absurd h1 (by simp)
    · apply h
      simpa [sensePending, sensePushed] using h2
  have hp : sensePush e s = s.modScsi (sensePushed e) := if_neg hn
  unfold failWith
  rw [hp, andThen_running (by simpa using hf)]
  rfl

/-- What a failed command leaves. -/
theorem failWith_spec {e : Sense} {s : State} (hf : s.fault = none) (h : PushAllowed s) : ScsiFailed e.1 e.2 s (failWith e s) := by
  rw [failWith_eq hf h]
  exact ⟨rfl, rfl, rfl⟩

/-- What a response leaves, after a write `f` of the sense ring (R272). -/
theorem respond_spec {out : List Byte} {s : State} : ScsiReplied out s.scsi.senseTail s (respond out s) := by
  refine ⟨rfl, ?_, ?_⟩
  · have := bytesOf_memWrite .work s.epoch s.scsi.work 0 out
    simpa [bufRead, bytesOf, respond, finish] using this
  · intro i hi
    exact byteOf_memWrite_out _ _ _ _ _ (.inr (by omega))

/-! ## Status (R269) -/

theorem cswBytes_length (tag : BitVec 32) (r : Nat) (st : Byte) : (cswBytes tag r st).length = 13 := rfl

/-- send_csw (R269). -/
theorem sendCsw_spec {s : State} (st : Byte) (h : EpUsable s.cfg.botInEp s) (hd : s.cfg.botInEp.isIn = true)
    (hr : RegionFits s.cfg.botInEp s) : CswSent st s (sendCsw st s) := by
  let u := setBotState .status (bufWrite .csw 0 (cswBytes s.bot.tag s.bot.residue st) s)
  have hu : EpUsable u.cfg.botInEp u := h
  obtain ⟨hw, hf, heq, ho⟩ := epWrite_spec (s := u) (buf := .csw) (len := 13) hu hd (by simp [readFits, arraySize]) hr
  have key : sendCsw st s = epWrite u.cfg.botInEp .csw 13 u := rfl
  rw [key]
  refine ⟨hf, ?_, ?_, hw, ?_, ho⟩
  · rw [heq]
    rfl
  · rw [heq]
    have := bytesOf_memWrite .csw s.epoch s.bot.cswBuf 0 (cswBytes s.bot.tag s.bot.residue st)
    rw [cswBytes_length] at this
    have hc : cswOf s.bot st = cswBytes s.bot.tag s.bot.residue st := rfl
    rw [hc]
    simpa [bufRead, bytesOf, u, setBotState] using this
  · rw [heq]
    rfl

end Sys2Proof.Machine
end

