-- ==== Sys2Proof/Laws/Closed.lean ====
section
/-!
SUPPORT. One law for claims over every instruction: a relation between states that each kind of write stays within is one that exec
stays within. For an invariant take `R s t := Inv s → Inv t`, for a frame `R s t := t.field = s.field`, for both their conjunction.
-/

namespace Sys2Proof.Machine

/-- The writes every instruction is made of stay within `R`; moves of the device state and of `class_active`, and resets, are not
among them. -/
structure Closed (R : State → State → Prop) : Prop where
  refl : ∀ s, R s s
  trans : ∀ {s t u}, R s t → R t u → R s u
  raise : ∀ s r, R s (s.raise r)
  hw : ∀ s a f, R s (s.modHw a f)
  hws : ∀ s f, R s (s.modHws f)
  periph : ∀ s f, R s (s.modPeriph f)
  answer : ∀ s o, R s (s.answer o)
  returning : ∀ s v, R s (s.returning v)
  useAnswer : ∀ s, R s (useAnswer s)
  useDraw : ∀ s, R s (useDraw s)
  enterClassRun : ∀ s c, R s { useClassRun s with calls := c :: s.calls }
  ctl : ∀ s f, (∀ c, (f c).devState = c.devState ∧ (f c).savedState = c.savedState ∧ (f c).classActive = c.classActive
    ∧ (f c).scratch = c.scratch) → R s (s.modCtl f)
  scsi : ∀ s f, (∀ c, (f c).work = c.work) → R s (s.modScsi f)
  bot : ∀ s f, (∀ b, (f b).cbwBuf = b.cbwBuf ∧ (f b).cswBuf = b.cswBuf) → R s (s.modBot f)
  pmaWrite : ∀ s off bs, R s (pmaWrite off bs s)
  bufWrite : ∀ s b off bs, R s (bufWrite b off bs s)
  storeBlock : ∀ s n bs, R s (setStorageBlock n bs s)
  store : ∀ s a bs, R s (s.modApp (fun m => memWrite m a bs))
  alloc : ∀ s n, R s (pmaAlloc n s)
  epOpen : ∀ s ep ty mps cb, R s (epOpen ep ty mps cb s)
  close : ∀ s ep, R s (s.modEp ep closeRecord)
  stall : ∀ s ep, R s (s.modEp ep (fun e => { e with stalled := true, active := false }))
  destall : ∀ s ep, R s (s.modEp ep (fun e => { e with stalled := false }))
  endTransfer : ∀ s ep, R s (s.modEp ep (fun e => { e with active := false }))
  /-- An OUT transfer is posted. -/
  post : ∀ s ep buf len, ep.isIn = false → (s.ep ep).isOpen = true → R s (postTransfer ep buf len s)
  /-- An IN transfer is posted and its first packet loaded. -/
  postLoad : ∀ s ep buf len, ep.isIn = true → (s.ep ep).isOpen = true → R s (loadIn ep (postTransfer ep buf len s))
  /-- OUT bytes are counted. -/
  countOut : ∀ s ep n, ep.isIn = false → (s.ep ep).active = true → R s (countBytes ep n s)
  /-- IN bytes are counted and the next packet loaded. -/
  countLoad : ∀ s ep n, ep.isIn = true → (s.ep ep).active = true → R s (loadIn ep (countBytes ep n s))
  /-- IN bytes are counted and the transfer ends. -/
  countEnd : ∀ s ep n, ep.isIn = true → R s ((countBytes ep n s).modEp ep (fun e => { e with active := false }))

/-- A write of the device state and of `class_active`, and of no other field with a rule of its own, stays within `R`. -/
def DeviceMoves (R : State → State → Prop) : Prop :=
  ∀ s f, (∀ c : Control, (f c).savedState = c.savedState ∧ (f c).scratch = c.scratch) → R s (s.modCtl f)

/-- The two requests that move the device state stay within `R` (41 R223, R230). -/
def RequestMoves (R : State → State → Prop) : Prop :=
  (∀ v i l s, R s (deviceSetAddress v i l s)) ∧ (∀ v s, R s (deviceSetConfiguration v s))

namespace Closed

variable {R : State → State → Prop}

/-! ## Sequencing -/

theorem andThen (h : Closed R) {s t : State} {f : State → State} (h1 : R s t) (h2 : R t (f t)) : R s (t.andThen f) := by
  unfold State.andThen
  split
  · exact h.trans h1 h2
  · exact h1

theorem withChecks (h : Closed R) {cs : List (Option FaultReason)} {f : State → State} {s : State}
    (hf : (∀ c ∈ cs, c = none) → R s (f s)) : R s (withChecks cs f s) := by
  rcases withChecks_cases cs f s with ⟨r, -, e⟩ | ⟨hc, e⟩
  · rw [e]; exact h.raise s r
  · rw [e]; exact hf hc

theorem isOpen_of_checkOpen {ep : EpAddr} {s : State} (h : checkOpen ep s = none) : (s.ep ep).isOpen = true := by
  rcases checkOpen_cases ep s with ⟨-, e⟩ | ⟨-, -, e⟩ | ⟨-, ho, -⟩
  · rw [e] at h; cases h
  · rw [e] at h; cases h
  · exact ho

theorem isIn_of_checkDir {ep : EpAddr} {d : Bool} (h : checkDir ep d = none) : ep.isIn = d := by
  unfold checkDir at h
  split at h
  · assumption
  · cases h

/-! ## Engine operations -/

theorem arm (h : Closed R) (ep : EpAddr) (s : State) : R s (arm ep s) := by
  rw [arm_eq]; exact h.hw ..

theorem epClose (h : Closed R) (ep : EpAddr) (s : State) : R s (epClose ep s) :=
  h.withChecks fun _ => h.trans (h.close s ep) (h.hw ..)

theorem epRead (h : Closed R) (ep : EpAddr) (buf : BufRef) (len : Nat) (s : State) : R s (epRead ep buf len s) :=
  h.withChecks fun hc => h.trans
    (h.post s ep buf len (isIn_of_checkDir (hc (checkDir ep false) (by simp)))
      (isOpen_of_checkOpen (hc (checkOpen ep s) (by simp)))) (h.arm ..)

theorem epWrite (h : Closed R) (ep : EpAddr) (buf : BufRef) (len : Nat) (s : State) : R s (epWrite ep buf len s) :=
  h.withChecks fun hc =>
    h.postLoad s ep buf len (isIn_of_checkDir (hc (checkDir ep true) (by simp)))
      (isOpen_of_checkOpen (hc (checkOpen ep s) (by simp)))

theorem epWriteZlp (h : Closed R) (ep : EpAddr) (s : State) : R s (epWriteZlp ep s) := h.epWrite ..

theorem epStall (h : Closed R) (ep : EpAddr) (s : State) : R s (epStall ep s) :=
  h.withChecks fun _ => h.trans (h.stall s ep) (h.hw ..)

theorem epDestall (h : Closed R) (ep : EpAddr) (s : State) : R s (epDestall ep s) :=
  h.withChecks fun _ => h.trans (h.destall s ep) (h.hw ..)

theorem abandon (h : Closed R) (ep : EpAddr) (s : State) : R s (abandon ep s) := h.trans (h.endTransfer s ep) (h.hw ..)

theorem allocReturning (h : Closed R) (n : Nat) (s : State) : R s (allocReturning n s) :=
  h.andThen (h.alloc s n) (h.returning ..)

/-! ## The control pipe -/

theorem ctlStatus (h : Closed R) (s : State) : R s (ctlStatus s) :=
  h.trans (h.ctl s _ (by exact fun _ => ⟨rfl, rfl, rfl, rfl⟩)) (h.epWriteZlp ..)

theorem reject (h : Closed R) (s : State) : R s (reject s) :=
  h.andThen (h.andThen (h.epStall ..) (h.epStall ..)) (h.ctl _ _ (by exact fun _ => ⟨rfl, rfl, rfl, rfl⟩))

theorem ctlSend (h : Closed R) (buf : BufRef) (len : Nat) (s : State) : R s (ctlSend buf len s) := by
  unfold Machine.ctlSend
  split
  · exact h.raise ..
  · split
    · exact h.ctlStatus s
    · exact h.andThen (h.trans (h.ctl s _ (by exact fun _ => ⟨rfl, rfl, rfl, rfl⟩)) (h.epWrite ..)) (h.epRead ..)

theorem ctlReceive (h : Closed R) (buf : BufRef) (len : Nat) (s : State) : R s (ctlReceive buf len s) := by
  unfold Machine.ctlReceive
  split
  · exact h.raise ..
  · split
    · exact h.ctlStatus s
    · exact h.trans (h.ctl s _ (by exact fun _ => ⟨rfl, rfl, rfl, rfl⟩)) (h.epRead ..)

theorem setupClear (h : Closed R) (s : State) : R s (setupClear s) :=
  h.trans (h.trans (h.trans (h.trans (h.destall s ctlOut) (h.abandon ..)) (h.destall _ ctlIn)) (h.abandon ..))
    (h.ctl _ _ (by exact fun _ => ⟨rfl, rfl, rfl, rfl⟩))

theorem ctrlInDone (h : Closed R) (s : State) : R s (ctrlInDone s) := by
  have h1 : R s (applyPendingAddress s) := by
    unfold applyPendingAddress
    split
    · exact h.trans (h.periph ..) (h.ctl _ _ (by exact fun _ => ⟨rfl, rfl, rfl, rfl⟩))
    · exact h.refl s
  refine h.trans h1 (u := ctrlInAdvance (applyPendingAddress s)) ?_
  unfold ctrlInAdvance
  split
  · split
    · exact h.trans (h.ctl _ _ (by exact fun _ => ⟨rfl, rfl, rfl, rfl⟩)) (h.epWriteZlp ..)
    · exact h.ctl _ _ (by exact fun _ => ⟨rfl, rfl, rfl, rfl⟩)
  · exact h.ctl _ _ (by exact fun _ => ⟨rfl, rfl, rfl, rfl⟩)
  all_goals exact h.refl _

/-! ## An OPAQUE class -/

theorem classAct (h : Closed R) (a : ClassAct) (s : State) : R s (classAct a s) := by
  cases a with
  | store addr b => exact h.store ..
  | call op =>
    show R s (classCallOp op s)
    unfold classCallOp
    split
    · exact h.epOpen ..
    · exact h.epClose ..
    · exact h.epRead ..
    · exact h.epWrite ..
    · exact h.epWriteZlp ..
    · exact h.epStall ..
    · exact h.epDestall ..
    · exact h.returning ..
    · exact h.returning ..
    · exact h.allocReturning ..
    · exact h.ctlSend ..
    · exact h.ctlReceive ..
    · exact h.refl s

theorem classActs (h : Closed R) (acts : List ClassAct) (s : State) : R s (classActs acts s) := by
  induction acts generalizing s with
  | nil => exact h.refl s
  | cons a acts ih => exact h.andThen (h.classAct a s) (ih _)

theorem runClass (h : Closed R) (c : ClassCall) (s : State) : R s (runClass c s) :=
  h.trans (h.enterClassRun s c) (h.classActs ..)

theorem ctrlOutDone (h : Closed R) (s : State) : R s (ctrlOutDone s) := by
  have hook : R s (controlDataReady s) := by
    unfold controlDataReady
    split
    · exact h.runClass ..
    all_goals exact h.refl s
  unfold Machine.ctrlOutDone
  split
  · exact h.trans (h.abandon ..) (h.ctl _ _ (by exact fun _ => ⟨rfl, rfl, rfl, rfl⟩))
  · exact h.trans (h.abandon ..) (h.ctl _ _ (by exact fun _ => ⟨rfl, rfl, rfl, rfl⟩))
  · exact h.andThen hook (h.ctlStatus _)
  all_goals exact h.refl s

/-! ## SCSI commands -/

theorem finish (h : Closed R) (r : ScsiState) (s : State) : R s (finish r s) := h.scsi _ _ (by exact fun _ => rfl)

theorem failWith (h : Closed R) (e : Sense) (s : State) : R s (failWith e s) := by
  refine h.andThen ?_ (h.finish ..)
  unfold sensePush
  simp only []
  split
  · exact h.trans (h.scsi s _ (by exact fun _ => rfl)) (h.raise ..)
  · exact h.scsi s _ (by exact fun _ => rfl)

theorem respond (h : Closed R) (bs : List Byte) (s : State) : R s (respond bs s) :=
  h.trans (h.trans (h.bufWrite s .work 0 bs) (h.scsi _ _ (by exact fun _ => rfl))) (h.finish ..)

theorem readNext (h : Closed R) (s : State) : R s (readNext s) := by
  unfold Machine.readNext
  split
  · exact h.raise ..
  · simp only []
    split
    · exact h.trans (h.trans (h.trans (h.useAnswer s) (h.bufWrite ..)) (h.scsi _ _ (by exact fun _ => rfl))) (h.finish ..)
    · exact h.trans (h.trans (h.trans (h.useAnswer s) (h.bufWrite ..)) (h.useDraw _)) (h.failWith ..)

theorem writeNext (h : Closed R) (s : State) : R s (writeNext s) := by
  unfold Machine.writeNext
  split
  · exact h.raise ..
  · simp only []
    split
    · exact h.trans (h.trans (h.trans (h.useAnswer s) (h.storeBlock ..)) (h.scsi _ _ (by exact fun _ => rfl))) (h.finish ..)
    · exact h.trans (h.trans (h.trans (h.useAnswer s) (h.storeBlock ..)) (h.useDraw _)) (h.failWith ..)

theorem resumeCommand (h : Closed R) (s : State) : R s (resumeCommand s) := by
  unfold Machine.resumeCommand
  split
  · exact h.readNext s
  · exact h.writeNext s
  all_goals exact h.finish ..

theorem testUnitReady (h : Closed R) (s : State) : R s (testUnitReady s) := by
  unfold Machine.testUnitReady
  split <;> [exact h.failWith ..; exact h.finish ..]

theorem requestSense (h : Closed R) (s : State) : R s (requestSense s) := by
  refine h.trans (h.scsi s sensePopped fun c => ?_) (h.respond ..)
  unfold sensePopped
  split <;> rfl

theorem readFormatCapacities (h : Closed R) (s : State) : R s (readFormatCapacities s) := by
  unfold Machine.readFormatCapacities
  split <;> [exact h.failWith ..; exact h.respond ..]

theorem readCapacity10 (h : Closed R) (s : State) : R s (readCapacity10 s) := by
  unfold Machine.readCapacity10
  split <;> [exact h.failWith ..; exact h.respond ..]

theorem setBlocks (h : Closed R) (lba : BitVec 32) (n : BitVec 16) (s : State) : R s (setBlocks lba n s) :=
  h.scsi _ _ (by exact fun _ => rfl)

theorem read10 (h : Closed R) (lba : BitVec 32) (n : BitVec 16) (s : State) : R s (read10 lba n s) := by
  unfold Machine.read10
  repeat' split
  all_goals first
    | exact h.failWith ..
    | exact h.finish ..
    | exact h.trans (h.setBlocks ..) (h.readNext _)

theorem write10 (h : Closed R) (lba : BitVec 32) (n : BitVec 16) (s : State) : R s (write10 lba n s) := by
  unfold Machine.write10
  repeat' split
  all_goals first
    | exact h.failWith ..
    | exact h.finish ..
    | exact h.trans (h.setBlocks ..) (h.finish ..)

theorem verify10 (h : Closed R) (lba : BitVec 32) (n : BitVec 16) (s : State) : R s (verify10 lba n s) := by
  unfold Machine.verify10
  repeat' split
  all_goals first
    | exact h.failWith ..
    | exact h.finish ..

theorem processCommand (h : Closed R) (i : Instr) (s : State) : R s (processCommand i s) := by
  cases i with
  | testUnitReady => exact h.testUnitReady s
  | requestSense => exact h.requestSense s
  | inquiry => exact h.respond ..
  | modeSense6 => exact h.respond ..
  | modeSense10 => exact h.respond ..
  | startStopUnit => exact h.finish ..
  | preventAllowMediumRemoval => exact h.finish ..
  | readFormatCapacities => exact h.readFormatCapacities s
  | readCapacity10 => exact h.readCapacity10 s
  | read10 lba n => exact h.read10 ..
  | write10 lba n => exact h.write10 ..
  | verify10 lba n => exact h.verify10 ..
  | _ => exact h.failWith ..

/-! ## The BOT sequencer -/

theorem setBotState (h : Closed R) (b : BotState) (s : State) : R s (setBotState b s) := h.bot _ _ (by exact fun _ => ⟨rfl, rfl⟩)

theorem postCbwRead (h : Closed R) (s : State) : R s (postCbwRead s) := h.trans (h.setBotState .idle s) (h.epRead ..)

theorem mscContext (h : Closed R) (s : State) : R s (mscContext s) :=
  h.trans (h.scsi s _ (by exact fun _ => rfl)) (h.bot _ _ (by exact fun _ => ⟨rfl, rfl⟩))

theorem mscInit (h : Closed R) (s : State) : R s (mscInit s) := by
  unfold Machine.mscInit
  exact h.andThen (h.andThen (h.epOpen ..) (h.epOpen ..)) (h.trans (h.mscContext _) (h.postCbwRead _))

theorem mscDeinit (h : Closed R) (s : State) : R s (mscDeinit s) :=
  h.andThen (h.andThen (h.epClose ..) (h.epClose ..)) (h.bot _ _ (by exact fun _ => ⟨rfl, rfl⟩))

theorem sendCsw (h : Closed R) (status : Byte) (s : State) : R s (sendCsw status s) :=
  h.trans (h.trans (h.bufWrite s .csw 0 _) (h.setBotState ..)) (h.epWrite ..)

theorem handleResult (h : Closed R) (s : State) : R s (handleResult s) := by
  unfold Machine.handleResult
  split
  · exact h.sendCsw ..
  · exact h.sendCsw ..
  · unfold sendResponse
    split
    · exact h.sendCsw ..
    · exact h.trans (h.bot s _ (by exact fun _ => ⟨rfl, rfl⟩)) (h.epWrite ..)
  · exact h.trans (h.setBotState ..) (h.epWrite ..)
  · exact h.trans (h.setBotState ..) (h.epWrite ..)
  · exact h.trans (h.setBotState ..) (h.epRead ..)

theorem cbwAccept (h : Closed R) (tag n : BitVec 32) (flags : Byte) (cdb : Vector Byte 16) (s : State) :
    R s (cbwAccept tag n flags cdb s) :=
  h.andThen (h.trans (h.bot s _ (by exact fun _ => ⟨rfl, rfl⟩)) (h.processCommand ..)) (h.handleResult _)

theorem cbwReject (h : Closed R) (s : State) : R s (cbwReject s) :=
  h.andThen (h.andThen (h.epStall ..) (h.epStall ..)) (h.setBotState ..)

theorem takeResidue (h : Closed R) (n : Nat) (s : State) : R s (takeResidue n s) := h.bot _ _ (by exact fun _ => ⟨rfl, rfl⟩)

theorem botInDone (h : Closed R) (n : Nat) (s : State) : R s (botInDone n s) := by
  unfold Machine.botInDone
  split
  · refine h.trans (h.takeResidue n s) ?_
    simp only []
    split
    · exact h.trans (h.bot _ _ (by exact fun _ => ⟨rfl, rfl⟩)) (h.epWriteZlp ..)
    · exact h.sendCsw ..
  · exact h.sendCsw ..
  · exact h.andThen (h.trans (h.takeResidue n s) (h.resumeCommand _)) (h.handleResult _)
  · exact h.trans (h.takeResidue n s) (h.sendCsw ..)
  · exact h.postCbwRead s
  all_goals exact h.refl s

theorem botOutDone (h : Closed R) (n : Nat) (s : State) : R s (botOutDone n s) := by
  unfold Machine.botOutDone
  split
  · unfold cbwReceived
    split
    · exact h.cbwAccept ..
    · exact h.cbwReject s
  · exact h.andThen (h.trans (h.takeResidue n s) (h.resumeCommand _)) (h.handleResult _)
  all_goals exact h.refl s

/-! ## Host transactions -/

theorem setupTransaction (h : Closed R) (addr : BitVec 7) (bs : List Byte) (s : State) : R s (setupTransaction addr bs s) := by
  unfold Machine.setupTransaction
  split
  · exact h.answer ..
  · exact h.andThen (h.pmaWrite ..) (h.trans (h.trans (h.hw ..) (h.hw ..)) (h.answer ..))

theorem outTransaction (h : Closed R) (addr : BitVec 7) (ep : EpAddr) (bs : List Byte) (s : State) :
    R s (outTransaction addr ep bs s) := by
  unfold Machine.outTransaction
  split
  · exact h.answer ..
  · split
    · exact h.answer ..
    · exact h.andThen (h.pmaWrite ..) (h.trans (h.hw ..) (h.answer ..))

theorem inTransaction (h : Closed R) (addr : BitVec 7) (ep : EpAddr) (s : State) : R s (inTransaction addr ep s) := by
  unfold Machine.inTransaction
  split
  · exact h.answer ..
  · split
    · exact h.answer ..
    · unfold sendIn
      simp only []
      split
      · exact h.trans (h.hw ..) (h.answer ..)
      · exact h.raise ..

/-! ## Completions -/

theorem callback (h : Closed R) (id : Option CallbackId) (ep : EpAddr) (n : Nat) (s : State) : R s (callback id ep n s) := by
  unfold Machine.callback
  split
  · exact h.ctrlInDone s
  · exact h.ctrlOutDone s
  · exact h.botInDone n s
  · exact h.botOutDone n s
  · exact h.runClass ..
  · exact h.refl s

theorem inCompletion (h : Closed R) {ep : EpAddr} (hd : ep.isIn = true) (s : State) : R s (inCompletion ep s) := by
  unfold Machine.inCompletion
  have h1 : R s (clearCtr ep s) := h.hw ..
  refine h.trans h1 ?_
  simp only []
  split
  · exact h.refl _
  · rename_i ha
    have ha' : ((clearCtr ep s).ep ep).active = true := by simpa using ha
    split
    · exact h.countLoad _ _ _ hd ha'
    · exact h.trans (h.countEnd (clearCtr ep s) ep ((clearCtr ep s).ep ep).inflight hd) (h.callback ..)

theorem outCompletion (h : Closed R) {ep : EpAddr} (hd : ep.isIn = false) (s : State) : R s (outCompletion ep s) := by
  unfold Machine.outCompletion
  have h1 : R s (clearCtr ep s) := h.hw ..
  refine h.trans h1 ?_
  simp only []
  split
  · exact h.refl _
  · rename_i ha
    have ha' : ((clearCtr ep s).ep ep).active = true := by simpa using ha
    refine h.andThen ?_ ?_
    · unfold deliverOut
      simp only []
      split
      · refine h.andThen (h.bufWrite ..) (h.countOut _ _ _ hd ?_)
        have hb : ∀ (b : BufRef) (o : Nat) (bs : List Byte) (u : State), (Machine.bufWrite b o bs u).ep ep = u.ep ep := by
          intro b o bs u
          rcases bufWrite_only b o bs u with e | e | e | e | ⟨_, e⟩ | e | e <;> rw [e] <;> simp
        rw [hb]
        exact ha'
      · exact h.raise ..
    · split
      · exact h.trans (h.endTransfer ..) (h.callback ..)
      · exact h.arm ..

/-! ## Requests -/

theorem sendScratch (h : Closed R) (bs : List Byte) (s : State) : R s (sendScratch bs s) :=
  h.trans (h.bufWrite s .scratch 0 bs) (h.ctlSend ..)

theorem beginRequest (h : Closed R) (b : Vector Byte 8) (s : State) : R s (beginRequest b s) :=
  h.ctl _ _ (by exact fun _ => ⟨rfl, rfl, rfl, rfl⟩)

theorem deviceGetStatus (h : Closed R) (l : BitVec 16) (s : State) : R s (deviceGetStatus l s) := by
  unfold Machine.deviceGetStatus
  split <;> [exact h.reject s; exact h.sendScratch ..]

theorem deviceFeature (h : Closed R) (on : Bool) (v : BitVec 16) (s : State) : R s (deviceFeature on v s) := by
  refine h.trans ?_ (h.ctlStatus _)
  split
  · exact h.ctl _ _ (by exact fun _ => ⟨rfl, rfl, rfl, rfl⟩)
  · exact h.refl s

theorem deviceGetString (h : Closed R) (x : Byte) (s : State) : R s (deviceGetString x s) := by
  unfold Machine.deviceGetString
  split <;> [exact h.sendScratch ..; exact h.reject s]

theorem deviceSetAddress (h : Closed R) (hm : DeviceMoves R) (v i l : BitVec 16) (s : State) :
    R s (deviceSetAddress v i l s) := by
  unfold Machine.deviceSetAddress
  split
  · exact h.reject s
  · exact h.trans (hm _ _ (by exact fun _ => ⟨rfl, rfl⟩)) (h.ctlStatus _)

theorem classDeinit (h : Closed R) (s : State) : R s (classDeinit s) := by
  unfold Machine.classDeinit
  split <;> [exact h.mscDeinit s; exact h.runClass ..]

theorem classInit (h : Closed R) (v : BitVec 16) (s : State) : R s (classInit v s) := by
  unfold Machine.classInit
  split <;> [exact h.mscInit s; exact h.runClass ..]

theorem leaveClass (h : Closed R) (hm : DeviceMoves R) (s : State) : R s (leaveClass s) := by
  unfold Machine.leaveClass
  split
  · exact h.andThen (h.classDeinit s) (hm _ _ (by exact fun _ => ⟨rfl, rfl⟩))
  · exact h.refl s

theorem enterClass (h : Closed R) (hm : DeviceMoves R) (v : BitVec 16) (s : State) : R s (enterClass v s) := by
  exact h.andThen (h.classInit v s) (hm _ _ (by exact fun _ => ⟨rfl, rfl⟩))

theorem deviceSetConfiguration (h : Closed R) (hm : DeviceMoves R) (v : BitVec 16) (s : State) :
    R s (deviceSetConfiguration v s) := by
  unfold Machine.deviceSetConfiguration
  split
  · exact h.reject s
  · refine h.andThen (h.andThen (h.andThen (h.leaveClass hm s) (h.ctl _ _ (by exact fun _ => ⟨rfl, rfl, rfl, rfl⟩))) ?_) (h.ctlStatus _)
    split
    · exact hm _ _ (by exact fun _ => ⟨rfl, rfl⟩)
    · exact h.enterClass hm ..

theorem requestMoves (h : Closed R) (hm : DeviceMoves R) : RequestMoves R :=
  ⟨fun _ _ _ _ => h.deviceSetAddress hm .., fun _ _ => h.deviceSetConfiguration hm ..⟩

theorem forLegalEp (h : Closed R) {f : EpAddr → State → State} (hf : ∀ e s, R s (f e s)) (i : BitVec 16) (s : State) :
    R s (forLegalEp i f s) := by
  unfold Machine.forLegalEp
  split <;> [exact hf ..; exact h.reject s]

theorem endpointGetStatus (h : Closed R) (l : BitVec 16) (e : EpAddr) (s : State) : R s (endpointGetStatus l e s) := by
  unfold Machine.endpointGetStatus
  split <;> [exact h.reject s; exact h.sendScratch ..]

theorem endpointClearHalt (h : Closed R) (v : BitVec 16) (e : EpAddr) (s : State) : R s (endpointClearHalt v e s) := by
  unfold Machine.endpointClearHalt
  split
  · exact h.reject s
  · refine h.andThen ?_ (h.ctlStatus _)
    split <;> [exact h.refl s; exact h.epDestall ..]

theorem endpointSetHalt (h : Closed R) (v : BitVec 16) (e : EpAddr) (s : State) : R s (endpointSetHalt v e s) := by
  unfold Machine.endpointSetHalt
  split
  · exact h.reject s
  · refine h.andThen ?_ (h.ctlStatus _)
    split <;> [exact h.refl s; exact h.epStall ..]

theorem massStorageReset (h : Closed R) (s : State) : R s (massStorageReset s) :=
  h.trans (h.trans (h.trans (h.abandon ..) (h.abandon ..)) (h.bot _ _ (by exact fun _ => ⟨rfl, rfl⟩))) (h.postCbwRead _)

theorem forward (h : Closed R) (b : Vector Byte 8) (i : Instr) (s : State) : R s (forward b i s) := by
  have hset : R s (classSetup b i s).1 := by
    unfold classSetup
    split
    · unfold mscSetup
      split
      · exact h.ctlSend ..
      · exact h.massStorageReset s
      · exact h.refl s
    · exact h.runClass ..
  unfold Machine.forward
  split
  · exact h.reject s
  · refine h.andThen hset ?_
    unfold finishForward
    split
    · exact h.reject _
    · split <;> [exact h.ctlStatus _; exact h.refl _]


theorem serveRequest (h : Closed R) (hm : RequestMoves R) (i : Instr) (s : State) : R s (serveRequest i s) := by
  unfold Machine.serveRequest
  split
  · exact h.trans (h.beginRequest ..) (h.deviceGetStatus ..)
  · exact h.trans (h.beginRequest ..) (h.deviceFeature ..)
  · exact h.trans (h.beginRequest ..) (h.deviceFeature ..)
  · exact h.trans (h.beginRequest ..) (hm.1 ..)
  · exact h.trans (h.beginRequest ..) (h.ctlSend ..)
  · exact h.trans (h.beginRequest ..) (h.ctlSend ..)
  · exact h.trans (h.beginRequest ..) (h.deviceGetString ..)
  · exact h.trans (h.beginRequest ..) (h.reject _)
  · exact h.trans (h.beginRequest ..) (h.reject _)
  · exact h.trans (h.beginRequest ..) (h.reject _)
  · exact h.trans (h.beginRequest ..) (h.reject _)
  · exact h.trans (h.beginRequest ..) (h.sendScratch ..)
  · exact h.trans (h.beginRequest ..) (hm.2 ..)
  · exact h.trans (h.beginRequest ..) (h.reject _)
  · exact h.trans (h.beginRequest ..) (h.reject _)
  · exact h.trans (h.beginRequest ..) (h.reject _)
  · exact h.trans (h.beginRequest ..) (h.reject _)
  · exact h.trans (h.beginRequest ..) (h.reject _)
  · exact h.trans (h.beginRequest ..) (h.forLegalEp (fun _ _ => h.endpointGetStatus ..) ..)
  · exact h.trans (h.beginRequest ..) (h.forLegalEp (fun _ _ => h.endpointClearHalt ..) ..)
  · exact h.trans (h.beginRequest ..) (h.forLegalEp (fun _ _ => h.endpointSetHalt ..) ..)
  · exact h.trans (h.beginRequest ..) (h.forLegalEp (fun _ _ => h.reject _) ..)
  · exact h.trans (h.beginRequest ..) (h.forLegalEp (fun _ _ => h.reject _) ..)
  · exact h.trans (h.beginRequest ..) (h.reject _)
  · exact h.trans (h.beginRequest ..) (h.forward ..)
  · exact h.trans (h.beginRequest ..) (h.reject _)
  · exact h.reject s

/-! ## Events and resets -/

theorem takeSetup (h : Closed R) (hm : RequestMoves R) (k : Nat) (s : State) : R s (takeSetup k s) := by
  unfold Machine.takeSetup
  split
  · exact h.reject _
  · split
    · exact h.raise ..
    · exact h.serveRequest hm ..

theorem setupService (h : Closed R) (hm : RequestMoves R) (s : State) : R s (setupService s) :=
  h.trans (h.trans (h.hw s ctlOut _) (h.setupClear _)) (h.takeSetup hm ..)

theorem ctrService (h : Closed R) (ep : EpAddr) (s : State) (hm : ep = ctlOut → (s.hw ctlOut).setup = true → RequestMoves R) :
    R s (ctrService ep s) := by
  unfold Machine.ctrService
  split
  · rename_i hs
    exact h.setupService (hm hs.1 hs.2) s
  · split
    · rename_i hd
      exact h.inCompletion hd s
    · rename_i hd
      exact h.outCompletion (by simpa using hd) s

theorem busReset (h : Closed R) (hm : DeviceMoves R) (hr : ∀ u, R u (resetFields u)) (s : State) : R s (busReset s) :=
  h.andThen (h.trans (h.periph s _) (h.leaveClass hm _)) (h.andThen (h.trans (hr _) (h.epOpen ..)) (h.epOpen ..))

theorem peripheralInit (h : Closed R) (s : State) : R s (peripheralInit s) := h.trans (h.periph ..) (h.hws ..)

/-- Power-on, from what holds of its fields; they and the reset are the same whatever the class, which is not active. -/
theorem powerOn (h : Closed R) (hr : ∀ u, R u (resetFields u)) {s : State} (hp : R s (powerOnFields s)) : R s (powerOn s) := by
  refine h.andThen (h.trans (h.trans hp (h.peripheralInit _)) (u := Machine.busReset (Machine.peripheralInit (powerOnFields s))) ?_)
    (h.periph ..)
  have hl : Machine.busReset (Machine.peripheralInit (powerOnFields s))
      = ((Machine.peripheralInit (powerOnFields s)).modPeriph (fun p => { p with pendReset := false })).andThen reopenControl := rfl
  rw [hl]
  exact h.andThen (h.periph ..) (h.andThen (h.trans (hr _) (h.epOpen ..)) (h.epOpen ..))

theorem resumeService (h : Closed R) (hm : DeviceMoves R) (s : State) : R s (resumeService s) := by
  refine h.trans (h.periph s _) (hm _ _ fun c => ?_)
  split <;> exact ⟨rfl, rfl⟩

end Closed

/-! ## Every instruction and every step -/

/-- The instruction may move the device state by a request. -/
def MovesDevice (i : Instr) (s : State) : Prop :=
  (∃ d v x l, i = .setAddress d v x l) ∨ (∃ d v x l, i = .setConfiguration d v x l)
    ∨ (i = .evCtr ctlOut ∧ (s.hw ctlOut).setup = true)

/-- exec stays within a relation every write stays within; the premises on the moving requests, suspend, resume and the resets are
asked for only where the instruction is one of them. -/
theorem Closed.exec {R : State → State → Prop} (h : Closed R) {i : Instr} {s t : State} (he : exec i s = .next t)
    (hm : MovesDevice i s → RequestMoves R) (hs : i = .evSuspend → R s (suspendService s))
    (hu : i = .evResume → R s (Machine.resumeService s)) (hr : i = .evReset → R s (Machine.busReset s))
    (hp : i = .rstPowerOn → R s (Machine.powerOn s)) : R s t := by
  cases i with
  | setAddress d v x l =>
    obtain ⟨-, rfl⟩ := agentStep_next he
    exact h.trans (h.beginRequest ..) ((hm (.inl ⟨d, v, x, l, rfl⟩)).1 ..)
  | setConfiguration d v x l =>
    obtain ⟨-, rfl⟩ := agentStep_next he
    exact h.trans (h.beginRequest ..) ((hm (.inr (.inl ⟨d, v, x, l, rfl⟩))).2 ..)
  | evReset =>
    simp only [Machine.exec, execEvReset] at he
    obtain ⟨-, -, rfl⟩ := guardedStep_next he
    exact hr rfl
  | evCtr ep =>
    obtain ⟨-, -, rfl⟩ := guardedStep_next he
    exact h.ctrService ep s fun he hs => hm (.inr (.inr ⟨by rw [he], hs⟩))
  | evSuspend => obtain ⟨-, -, rfl⟩ := guardedStep_next he; exact hs rfl
  | evResume => obtain ⟨-, -, rfl⟩ := guardedStep_next he; exact hu rfl
  | rstPowerOn => obtain ⟨-, rfl⟩ := agentStep_next he; exact hp rfl
  | hostBusReset =>
    obtain ⟨-, -, rfl⟩ := guardedStep_next he
    exact h.trans (h.trans (h.periph ..) (h.hws ..)) (h.answer ..)
  | hostSetup addr bs => obtain ⟨-, -, rfl⟩ := guardedStep_next he; exact h.setupTransaction ..
  | hostOut addr ep bs => obtain ⟨-, -, rfl⟩ := guardedStep_next he; exact h.outTransaction ..
  | hostIn addr ep => obtain ⟨-, -, rfl⟩ := guardedStep_next he; exact h.inTransaction ..
  | hostSuspend =>
    simp only [Machine.exec, execHostSuspend] at he
    obtain ⟨-, -, rfl⟩ := guardedStep_next he
    unfold suspendSignal
    split
    · exact h.refl s
    · exact h.trans (h.periph ..) (h.answer ..)
  | hostResume =>
    simp only [Machine.exec, execHostResume] at he
    obtain ⟨-, -, rfl⟩ := guardedStep_next he
    exact h.trans (h.periph ..) (h.answer ..)
  | epOpen ep ty mps cb => obtain ⟨-, rfl⟩ := agentStep_next he; exact h.epOpen ..
  | epClose ep => obtain ⟨-, rfl⟩ := agentStep_next he; exact h.epClose ..
  | epRead ep buf len => obtain ⟨-, rfl⟩ := agentStep_next he; exact h.epRead ..
  | epWrite ep buf len => obtain ⟨-, rfl⟩ := agentStep_next he; exact h.epWrite ..
  | epWriteZlp ep => obtain ⟨-, rfl⟩ := agentStep_next he; exact h.epWriteZlp ..
  | epStall ep => obtain ⟨-, rfl⟩ := agentStep_next he; exact h.epStall ..
  | epDestall ep => obtain ⟨-, rfl⟩ := agentStep_next he; exact h.epDestall ..
  | epIsOpen ep => obtain ⟨-, rfl⟩ := agentStep_next he; exact h.returning ..
  | epIsStalled ep => obtain ⟨-, rfl⟩ := agentStep_next he; exact h.returning ..
  | pmaAlloc n => obtain ⟨-, rfl⟩ := agentStep_next he; exact h.allocReturning ..
  | ctlSend buf len => obtain ⟨-, rfl⟩ := agentStep_next he; exact h.ctlSend ..
  | ctlReceive buf len => obtain ⟨-, rfl⟩ := agentStep_next he; exact h.ctlReceive ..
  | getStatusDevice =>
    obtain ⟨-, rfl⟩ := agentStep_next he
    exact h.trans (h.beginRequest ..) (h.deviceGetStatus ..)
  | clearFeatureDevice | setFeatureDevice =>
    obtain ⟨-, rfl⟩ := agentStep_next he
    exact h.trans (h.beginRequest ..) (h.deviceFeature ..)
  | getDescriptorDevice | getDescriptorConfiguration =>
    obtain ⟨-, rfl⟩ := agentStep_next he
    exact h.trans (h.beginRequest ..) (h.ctlSend ..)
  | getDescriptorString =>
    obtain ⟨-, rfl⟩ := agentStep_next he
    exact h.trans (h.beginRequest ..) (h.deviceGetString ..)
  | getConfiguration =>
    obtain ⟨-, rfl⟩ := agentStep_next he
    exact h.trans (h.beginRequest ..) (h.sendScratch ..)
  | getDescriptorDeviceQualifier | getDescriptorOtherSpeedConfiguration | getDescriptorOtherType | setDescriptor |
  getInterfaceDevice | setInterfaceDevice | synchFrameDevice | deviceStandardReserved | deviceClassVendorReserved |
  endpointClassVendorReserved | setupOtherRecipient =>
    obtain ⟨-, rfl⟩ := agentStep_next he
    exact h.trans (h.beginRequest ..) (h.reject _)
  | getStatusEndpoint =>
    obtain ⟨-, rfl⟩ := agentStep_next he
    exact h.trans (h.beginRequest ..) (h.forLegalEp (fun _ _ => h.endpointGetStatus ..) ..)
  | clearFeatureEndpoint =>
    obtain ⟨-, rfl⟩ := agentStep_next he
    exact h.trans (h.beginRequest ..) (h.forLegalEp (fun _ _ => h.endpointClearHalt ..) ..)
  | setFeatureEndpoint =>
    obtain ⟨-, rfl⟩ := agentStep_next he
    exact h.trans (h.beginRequest ..) (h.forLegalEp (fun _ _ => h.endpointSetHalt ..) ..)
  | synchFrameEndpoint | endpointStandardOther =>
    obtain ⟨-, rfl⟩ := agentStep_next he
    exact h.trans (h.beginRequest ..) (h.forLegalEp (fun _ _ => h.reject _) ..)
  | setupInterfaceForward | getMaxLun | bulkOnlyMassStorageReset | classreqOther =>
    obtain ⟨-, rfl⟩ := agentStep_next he
    exact h.trans (h.beginRequest ..) (h.forward ..)
  | cbw => obtain ⟨-, rfl⟩ := agentStep_next he; exact h.cbwAccept ..
  | cbwMalformed => obtain ⟨-, rfl⟩ := agentStep_next he; exact h.cbwReject s
  | testUnitReady => obtain ⟨-, rfl⟩ := agentStep_next he; exact h.testUnitReady s
  | requestSense => obtain ⟨-, rfl⟩ := agentStep_next he; exact h.requestSense s
  | inquiry => obtain ⟨-, rfl⟩ := agentStep_next he; exact h.respond ..
  | modeSense6 => obtain ⟨-, rfl⟩ := agentStep_next he; exact h.respond ..
  | startStopUnit => obtain ⟨-, rfl⟩ := agentStep_next he; exact h.finish ..
  | preventAllowMediumRemoval => obtain ⟨-, rfl⟩ := agentStep_next he; exact h.finish ..
  | readFormatCapacities => obtain ⟨-, rfl⟩ := agentStep_next he; exact h.readFormatCapacities s
  | readCapacity10 => obtain ⟨-, rfl⟩ := agentStep_next he; exact h.readCapacity10 s
  | read10 lba n => obtain ⟨-, rfl⟩ := agentStep_next he; exact h.read10 ..
  | write10 lba n => obtain ⟨-, rfl⟩ := agentStep_next he; exact h.write10 ..
  | verify10 lba n => obtain ⟨-, rfl⟩ := agentStep_next he; exact h.verify10 ..
  | modeSense10 => obtain ⟨-, rfl⟩ := agentStep_next he; exact h.respond ..
  | cdbUnsupported o => obtain ⟨-, rfl⟩ := agentStep_next he; exact h.failWith ..

/-- What a step is: the instruction decoded from the schedule or chosen by the handler, run on the state with that choice made, or what
a word that is no instruction does, or nothing. -/
theorem step_cases {s t : State} (hs : step s = .next t) :
    configWf s.cfg = true ∧
      ((∃ i u, exec i u = .next t ∧ ((∃ l, u = { s with script := l }) ∨ u = s ∨ u = useDraw s))
        ∨ (s.fault = none ∧ ∃ l f, (f = reject ∨ f = peripheralInit ∨ f = peripheralStart ∨ f = peripheralStop)
            ∧ t = f { s with script := l })
        ∨ t = s) := by
  unfold step at hs
  have wf : ∀ r, underWfConfig s r = .next t → configWf s.cfg = true ∧ r = .next t := by
    intro r h
    unfold underWfConfig at h
    split at h
    · exact ⟨‹_›, h⟩
    · cases h
  split at hs
  · rename_i w u e
    obtain ⟨hc, hr⟩ := wf _ hs
    refine ⟨hc, ?_⟩
    obtain ⟨l, rfl⟩ : ∃ l, u = { s with script := l } := by
      unfold nextWord at e
      split at e
      · cases e
      · injection e with e
        injection e with _ e
        exact ⟨_, e.symm⟩
    unfold runWord at hr
    split at hr
    · exact .inl ⟨_, _, hr, .inl ⟨l, rfl⟩⟩
    · right; left
      unfold runOther at hr
      split at hr
      · obtain ⟨hf, rfl⟩ := agentStep_next hr
        exact ⟨hf, l, _, .inl rfl, rfl⟩
      · obtain ⟨hf, rfl⟩ := agentStep_next hr
        exact ⟨hf, l, _, .inl rfl, rfl⟩
      · split at hr
        · rename_i f hf'
          obtain ⟨hf, rfl⟩ := agentStep_next hr
          refine ⟨hf, l, f, .inr ?_, rfl⟩
          unfold peripheralCall at hf'
          split at hf' <;> cases hf' <;> simp
        · cases hr
      all_goals cases hr
  · obtain ⟨hc, hr⟩ := wf _ hs
    refine ⟨hc, ?_⟩
    unfold runHandler at hr
    split at hr
    · rename_i i u e
      refine .inl ⟨i, u, hr, .inr ?_⟩
      unfold handlerMove at e
      split at e
      · cases e
      all_goals
        injection e with e
        injection e with _ e
        simp [← e]
    · exact .inr (.inr (agentStep_next hr).2)

/-- A step stays within a relation every write stays within, if exec does. -/
theorem Closed.step {R : State → State → Prop} (h : Closed R) (hl : ∀ s l, R s { s with script := l }) {s t : State}
    (hs : step s = .next t) (he : ∀ i u, Machine.exec i u = .next t → R u t) : R s t := by
  obtain ⟨-, ⟨i, u, e, hu⟩ | ⟨-, l, f, hf, rfl⟩ | rfl⟩ := step_cases hs
  · have hu' : R s u := by
      rcases hu with ⟨l, rfl⟩ | rfl | rfl
      · exact hl ..
      · exact h.refl _
      · exact h.useDraw _
    exact h.trans hu' (he i u e)
  · refine h.trans (hl s l) ?_
    rcases hf with rfl | rfl | rfl | rfl
    · exact h.reject _
    · exact h.peripheralInit _
    · exact h.periph ..
    · exact h.periph ..
  · exact h.refl _

end Sys2Proof.Machine
end

