-- ==== Sys2Proof/Laws/Completions.lean ====
section
/-!
SUPPORT. What a buffer write does, and what the handler does with the last packet of a transfer up to its callback, said once (20_memory R72;
40 R163, R164).
-/

namespace Sys2Proof.Machine

/-! ## Buffers (20_memory R72) -/

/-- A buffer write that fits: the bytes are in the buffer, and every other byte of every buffer is as before. -/
theorem bufWrite_spec (b : BufRef) (off : Nat) (bs : List Byte) (s : State)
    (hw : writeFits s.cfg b (off + bs.length) = true) :
    (∀ j, (h : j < bs.length) → bufByte (bufWrite b off bs s) b (off + j) = bs[j])
      ∧ BuffersKeptOutside b off bs.length s (bufWrite b off bs s)
      ∧ bufWrite b off bs s
          = { s with app := (bufWrite b off bs s).app, ctl := { s.ctl with scratch := (bufWrite b off bs s).ctl.scratch },
                     scsi := { s.scsi with work := (bufWrite b off bs s).scsi.work },
                     bot := { s.bot with cbwBuf := (bufWrite b off bs s).bot.cbwBuf,
                                         cswBuf := (bufWrite b off bs s).bot.cswBuf } } := by
  obtain ⟨array, o⟩ := b
  have get : ∀ (sp ep m j) (h : j < bs.length),
      byteOf sp ep (memWrite m (off + o.toNat) bs) (off + j + o.toNat) = bs[j] := by
    intro sp ep m j h
    have := byteOf_memWrite_in sp ep m (off + o.toNat) bs h
    rwa [show off + o.toNat + j = off + j + o.toNat by omega] at this
  cases array with
  | none | maxLun | deviceDesc | configDesc =>
    have hnil : bs = [] := by
      simp only [writeFits, arrayWritable, Bool.false_eq_true, false_and, or_false, decide_eq_true_eq] at hw
      exact List.eq_nil_of_length_eq_zero (by omega)
    subst hnil
    exact ⟨by simp, fun b i _ => by simp [bufWrite, arrayWrite], by simp [bufWrite, arrayWrite]⟩
  | app base size =>
    refine ⟨?_, ?_, rfl⟩
    · intro j h
      have := byteOf_memWrite_in .app s.epoch s.app (base.toNat + (off + o.toNat)) bs h
      show byteOf .app s.epoch (memWrite s.app (base.toNat + (off + o.toNat)) bs) (base.toNat + (off + j + o.toNat)) = _
      rw [← this]
      congr 1
      omega
    · rintro ⟨arr, o'⟩ i hi
      cases arr <;> try rfl
      rename_i base' size'
      show byteOf .app s.epoch (memWrite s.app _ bs) (base'.toNat + (i + o'.toNat)) = byteOf .app s.epoch s.app _
      apply byteOf_memWrite_out
      by_contra hc
      dsimp only at hc
      apply hi (base'.toNat + (i + o'.toNat) - (base.toNat + (off + o.toNat))) (by omega)
      simp only [bufferCell, Prod.mk.injEq, true_and]
      omega
  | scratch | work | cbw | csw =>
    refine ⟨fun j h => get _ _ _ j h, ?_, rfl⟩
    rintro ⟨arr, o'⟩ i hi
    cases arr <;> try rfl
    apply byteOf_memWrite_out
    by_contra hc
    dsimp only at hc
    apply hi (i + o'.toNat - (off + o.toNat)) (by omega)
    simp only [bufferCell, Prod.mk.injEq, true_and]
    omega

/-! ## The last packet of a transfer (40 R163, R164) -/

/-- The guard of an event that may be serviced is passed. -/
theorem eventGuard_pending {ep : EpAddr} {s : State} (h : PacketPending ep s) :
    eventGuard (fun s => ctrPending s ep) s = none := by
  obtain ⟨-, hr, hn, hc, -⟩ := h
  simp [eventGuard, ctrPending, epExists, hn, hc, hr]

/-- The state in which the last IN packet of a transfer has been counted. -/
def inCounted (ep : EpAddr) (s : State) : State := (clearCtr ep s).modEp ep inDone

/-- EV_CTR of the last IN packet: the transfer's callback on the state counted. -/
theorem evCtr_lastIn {ep : EpAddr} {s : State} (h : LastInPending ep s) :
    exec (.evCtr ep) s
        = .next (callback (s.ep ep).callback ep ((s.ep ep).transferred + (s.ep ep).inflight) (inCounted ep s))
      ∧ InDelivered ep s (inCounted ep s) := by
  obtain ⟨hp, hi, ha, hl⟩ := h
  have hne : ep ≠ ctlOut := by
    intro h
    rw [h] at hi
    exact absurd hi (by decide)
  constructor
  · simp only [exec, execEvCtr]
    rw [guardedStep_running hp.1 (eventGuard_pending hp)]
    unfold ctrService
    rw [if_neg (fun h => hne h.1), if_pos hi]
    simp [inCompletion, countBytes, clearCtr, ha, transferDone, inCounted]
    rw [if_neg (by omega)]
    rfl
  · refine ⟨by simp [inCounted, clearCtr], by simp [inCounted, clearCtr], rfl, ?_,
      fun _ => rfl, fun b i => by cases b; rfl, fun _ => rfl⟩
    intro a ha
    have hne : a ≠ ep := by simpa using ha
    simp [inCounted, clearCtr, ep_modEp_ne _ _ hne, hw_modHw_ne _ _ hne]

/-- EV_CTR of the last OUT packet: the transfer's callback on a state in which the packet is delivered; a packet of no bytes into the
reference none writes nothing. -/
theorem evCtr_lastOut {ep : EpAddr} {s : State} (h : LastOutPending ep s) :
    ∃ w, exec (.evCtr ep) s = .next (callback (s.ep ep).callback ep ((s.ep ep).transferred + outTaken ep s) w)
      ∧ OutDelivered ep s w
      ∧ (outTaken ep s = 0 → (s.ep ep).buf = .none → w = { s with eps := w.eps, hws := w.hws }) := by
  obtain ⟨hp, hi, ha, hl, hreg, hfit⟩ := h
  obtain ⟨hf, -, -, -, hset⟩ := id hp
  have hbl : (pmaRead s (outRegion ep s) (outTaken ep s)).length = outTaken ep s := bytesOf_length _ _ _ _ _
  obtain ⟨b1, b2, b3⟩ := bufWrite_spec (s.ep ep).buf (s.ep ep).transferred (pmaRead s (outRegion ep s) (outTaken ep s))
    (clearCtr ep s) (by rw [hbl]; exact hfit)
  generalize hu : bufWrite (s.ep ep).buf (s.ep ep).transferred (pmaRead s (outRegion ep s) (outTaken ep s)) (clearCtr ep s) = u
    at b1 b2 b3
  have ufault : u.fault = none := by rw [b3]; exact hf
  have uep : ∀ a, u.ep a = s.ep a := fun a => by rw [b3]; rfl
  have uhw : ∀ a, u.hw a = (clearCtr ep s).hw a := fun a => by rw [b3]; rfl
  have uhws : u.hws = (clearCtr ep s).hws := by rw [b3]
  refine ⟨u.modEp ep (fun _ => outDone ep s), ?_, ⟨?_, ?_, ?_, ?_, ?_, ?_⟩, ?_⟩
  · simp only [exec, execEvCtr]
    rw [guardedStep_running hf (eventGuard_pending hp)]
    unfold ctrService
    rw [if_neg (by rintro ⟨h, h'⟩; rw [hset h] at h'; exact absurd h' (by simp)), if_neg (by simp [hi])]
    have hreg' : unloadRegion ((clearCtr ep s).ep ep) ((clearCtr ep s).hw ep) = outRegion ep s := by
      unfold unloadRegion outRegion
      simp only [clearCtr, modHw_ep, hw_modHw_same]
      cases (s.ep ep).dbuf <;> cases (s.hw ep).bufSel <;> rfl
    have hdel : deliverOut ep (outTaken ep s) (clearCtr ep s) = countBytes ep (outTaken ep s) u := by
      unfold deliverOut
      simp only [hreg']
      rw [if_pos (by exact hreg)]
      show State.andThen (bufWrite (s.ep ep).buf (s.ep ep).transferred
        (pmaRead s (outRegion ep s) (outTaken ep s)) (clearCtr ep s)) _ = _
      rw [hu, andThen_running ufault]
    have e2 : ((clearCtr ep s).hw ep).count = (s.hw ep).count := by simp [clearCtr]
    unfold outCompletion
    simp only [show (clearCtr ep s).ep ep = s.ep ep from rfl, e2, ha, Bool.not_true, Bool.false_eq_true, if_false]
    rw [show min (s.hw ep).count (s.ep ep).remaining = outTaken ep s from rfl, hdel, andThen_running (by exact ufault),
      if_pos (by
        simp only [countBytes, ep_modEp_same, uep, outTaken]
        omega)]
    unfold transferDone
    rw [show ((countBytes ep (outTaken ep s) u).ep ep).callback = (s.ep ep).callback by simp [countBytes, uep],
      show ((countBytes ep (outTaken ep s) u).ep ep).transferred = (s.ep ep).transferred + outTaken ep s by
        simp [countBytes, uep],
      show (countBytes ep (outTaken ep s) u).modEp ep (fun e => { e with active := false })
          = u.modEp ep (fun _ => outDone ep s) by
        rw [countBytes, modEp_modEp]
        simp only [State.modEp, uep, outDone]]
  · intro j hj
    show bufByte u _ _ = _
    rw [b1 j (by rw [hbl]; exact hj)]
    simp [pmaRead, bytesOf, pmaByte]
  · intro b i h
    rw [← hbl] at h
    exact b2 b i h
  · simp
  · simp [uhw, clearCtr]
  · rw [← uhws] at b3
    exact congrArg (fun q : State => { q with eps := (u.modEp ep (fun _ => outDone ep s)).eps }) b3
  · intro a ha
    have hne : a ≠ ep := by simpa using ha
    simp [ep_modEp_ne _ _ hne, uep, uhw, clearCtr, hw_modHw_ne _ _ hne]
  · intro h0 hb
    have hnil : pmaRead s (outRegion ep s) (outTaken ep s) = [] := List.eq_nil_of_length_eq_zero (by rw [hbl, h0])
    have : u = clearCtr ep s := by
      rw [← hu, hnil, hb]
      rfl
    rw [this]
    rfl

end Sys2Proof.Machine
end

