-- ==== Sys2Proof/Laws/PerInstr.lean ====
section
/-!
SUPPORT. Statements made of every instruction as syntax, one lemma per constructor.
-/

namespace Sys2Proof.Laws.EncodesWell

/-- A word has the length its format gives it: an operation word has its code and at most the operands of the longest one (HOST_OUT of
1023 bytes), a request has 8 bytes (30_encoding R101), a CDB 16 (R112), and a transfer received as a CBW either has 31 bytes or is
malformed (R110). No instruction is a call of the peripheral interface. -/
def Sized (w : OpWord) : Prop :=
  match w.fmt with
  | .periph => False
  | .op => 1 ≤ w.bytes.length ∧ w.bytes.length ≤ 1026
  | .setup | .classReq => w.bytes.length = 8
  | .cbw => w.bytes.length = 31 ∨ Instr.validCbw w.bytes = false
  | .cdb => w.bytes.length = 16

/-- The encoding of a well-formed instruction has the length of its format. -/
def Statement (i : Instr) : Prop := i.wf = true → Sized (encode i)

theorem buf_length (b : BufRef) : (encodeBuf b).length = 13 := rfl

theorem callback_length (c : CallbackId) : (encodeCallback c).length = 2 := by cases c <;> rfl

theorem setupWord_sized (d : Bool) (t : BitVec 2) (p : BitVec 5) (r : Byte) (v i l : BitVec 16) :
    Sized (setupWord d t p r v i l) := rfl

theorem epOpen (ep : EpAddr) (type : EpType) (mps : BitVec 16) (cb : CallbackId) :
    Statement (.epOpen ep type mps cb) := by
  intro _
  simp [Sized, encode, le16Bytes, callback_length]

theorem epClose (ep : EpAddr) :
    Statement (.epClose ep) := by
  intro _
  simp [Sized, encode]

theorem epRead (ep : EpAddr) (buf : BufRef) (len : BitVec 32) :
    Statement (.epRead ep buf len) := by
  intro _
  simp [Sized, encode, le32Bytes, buf_length]

theorem epWrite (ep : EpAddr) (buf : BufRef) (len : BitVec 32) :
    Statement (.epWrite ep buf len) := by
  intro _
  simp [Sized, encode, le32Bytes, buf_length]

theorem epWriteZlp (ep : EpAddr) :
    Statement (.epWriteZlp ep) := by
  intro _
  simp [Sized, encode]

theorem epStall (ep : EpAddr) :
    Statement (.epStall ep) := by
  intro _
  simp [Sized, encode]

theorem epDestall (ep : EpAddr) :
    Statement (.epDestall ep) := by
  intro _
  simp [Sized, encode]

theorem epIsOpen (ep : EpAddr) :
    Statement (.epIsOpen ep) := by
  intro _
  simp [Sized, encode]

theorem epIsStalled (ep : EpAddr) :
    Statement (.epIsStalled ep) := by
  intro _
  simp [Sized, encode]

theorem pmaAlloc (size : Nat) :
    Statement (.pmaAlloc size) := by
  intro _
  simp [Sized, encode, le32Bytes]

theorem ctlSend (buf : BufRef) (len : BitVec 16) :
    Statement (.ctlSend buf len) := by
  intro _
  simp [Sized, encode, le16Bytes, buf_length]

theorem ctlReceive (buf : BufRef) (len : BitVec 16) :
    Statement (.ctlReceive buf len) := by
  intro _
  simp [Sized, encode, le16Bytes, buf_length]

theorem hostBusReset :
    Statement .hostBusReset := by
  intro _
  simp [Sized, encode]

theorem hostSetup (addr : BitVec 7) (bytes : List Byte) :
    Statement (.hostSetup addr bytes) := by
  intro h
  simp [Instr.wf] at h
  simp [Sized, encode]
  omega

theorem hostOut (addr : BitVec 7) (ep : EpAddr) (bytes : List Byte) :
    Statement (.hostOut addr ep bytes) := by
  intro h
  simp [Instr.wf] at h
  simp [Sized, encode]
  omega

theorem hostIn (addr : BitVec 7) (ep : EpAddr) :
    Statement (.hostIn addr ep) := by
  intro _
  simp [Sized, encode]

theorem hostSuspend :
    Statement .hostSuspend := by
  intro _
  simp [Sized, encode]

theorem hostResume :
    Statement .hostResume := by
  intro _
  simp [Sized, encode]

theorem evReset :
    Statement .evReset := by
  intro _
  simp [Sized, encode]

theorem evCtr (ep : EpAddr) :
    Statement (.evCtr ep) := by
  intro _
  simp [Sized, encode]

theorem evSuspend :
    Statement .evSuspend := by
  intro _
  simp [Sized, encode]

theorem evResume :
    Statement .evResume := by
  intro _
  simp [Sized, encode]

theorem rstPowerOn :
    Statement .rstPowerOn := by
  intro _
  simp [Sized, encode]

theorem getStatusDevice (dir : Bool) (wValue wIndex wLength : BitVec 16) :
    Statement (.getStatusDevice dir wValue wIndex wLength) := fun _ => setupWord_sized ..

theorem clearFeatureDevice (dir : Bool) (wValue wIndex wLength : BitVec 16) :
    Statement (.clearFeatureDevice dir wValue wIndex wLength) := fun _ => setupWord_sized ..

theorem setFeatureDevice (dir : Bool) (wValue wIndex wLength : BitVec 16) :
    Statement (.setFeatureDevice dir wValue wIndex wLength) := fun _ => setupWord_sized ..

theorem setAddress (dir : Bool) (wValue wIndex wLength : BitVec 16) :
    Statement (.setAddress dir wValue wIndex wLength) := fun _ => setupWord_sized ..

theorem getDescriptorDevice (dir : Bool) (index : Byte) (wIndex wLength : BitVec 16) :
    Statement (.getDescriptorDevice dir index wIndex wLength) := fun _ => setupWord_sized ..

theorem getDescriptorConfiguration (dir : Bool) (index : Byte) (wIndex wLength : BitVec 16) :
    Statement (.getDescriptorConfiguration dir index wIndex wLength) := fun _ => setupWord_sized ..

theorem getDescriptorString (dir : Bool) (index : Byte) (wIndex wLength : BitVec 16) :
    Statement (.getDescriptorString dir index wIndex wLength) := fun _ => setupWord_sized ..

theorem getDescriptorDeviceQualifier (dir : Bool) (index : Byte) (wIndex wLength : BitVec 16) :
    Statement (.getDescriptorDeviceQualifier dir index wIndex wLength) := fun _ => setupWord_sized ..

theorem getDescriptorOtherSpeedConfiguration (dir : Bool) (index : Byte) (wIndex wLength : BitVec 16) :
    Statement (.getDescriptorOtherSpeedConfiguration dir index wIndex wLength) := fun _ => setupWord_sized ..

theorem getDescriptorOtherType (dir : Bool) (dtype index : Byte) (wIndex wLength : BitVec 16) :
    Statement (.getDescriptorOtherType dir dtype index wIndex wLength) := fun _ => setupWord_sized ..

theorem setDescriptor (dir : Bool) (wValue wIndex wLength : BitVec 16) :
    Statement (.setDescriptor dir wValue wIndex wLength) := fun _ => setupWord_sized ..

theorem getConfiguration (dir : Bool) (wValue wIndex wLength : BitVec 16) :
    Statement (.getConfiguration dir wValue wIndex wLength) := fun _ => setupWord_sized ..

theorem setConfiguration (dir : Bool) (wValue wIndex wLength : BitVec 16) :
    Statement (.setConfiguration dir wValue wIndex wLength) := fun _ => setupWord_sized ..

theorem getInterfaceDevice (dir : Bool) (wValue wIndex wLength : BitVec 16) :
    Statement (.getInterfaceDevice dir wValue wIndex wLength) := fun _ => setupWord_sized ..

theorem setInterfaceDevice (dir : Bool) (wValue wIndex wLength : BitVec 16) :
    Statement (.setInterfaceDevice dir wValue wIndex wLength) := fun _ => setupWord_sized ..

theorem synchFrameDevice (dir : Bool) (wValue wIndex wLength : BitVec 16) :
    Statement (.synchFrameDevice dir wValue wIndex wLength) := fun _ => setupWord_sized ..

theorem deviceStandardReserved (dir : Bool) (bRequest : Byte) (wValue wIndex wLength : BitVec 16) :
    Statement (.deviceStandardReserved dir bRequest wValue wIndex wLength) := fun _ => setupWord_sized ..

theorem deviceClassVendorReserved (dir : Bool) (type : BitVec 2) (bRequest : Byte) (wValue wIndex wLength : BitVec 16) :
    Statement (.deviceClassVendorReserved dir type bRequest wValue wIndex wLength) := fun _ => setupWord_sized ..

theorem getStatusEndpoint (dir : Bool) (wValue wIndex wLength : BitVec 16) :
    Statement (.getStatusEndpoint dir wValue wIndex wLength) := fun _ => setupWord_sized ..

theorem clearFeatureEndpoint (dir : Bool) (wValue wIndex wLength : BitVec 16) :
    Statement (.clearFeatureEndpoint dir wValue wIndex wLength) := fun _ => setupWord_sized ..

theorem setFeatureEndpoint (dir : Bool) (wValue wIndex wLength : BitVec 16) :
    Statement (.setFeatureEndpoint dir wValue wIndex wLength) := fun _ => setupWord_sized ..

theorem synchFrameEndpoint (dir : Bool) (wValue wIndex wLength : BitVec 16) :
    Statement (.synchFrameEndpoint dir wValue wIndex wLength) := fun _ => setupWord_sized ..

theorem endpointStandardOther (dir : Bool) (bRequest : Byte) (wValue wIndex wLength : BitVec 16) :
    Statement (.endpointStandardOther dir bRequest wValue wIndex wLength) := fun _ => setupWord_sized ..

theorem endpointClassVendorReserved (dir : Bool) (type : BitVec 2) (bRequest : Byte) (wValue wIndex wLength : BitVec 16) :
    Statement (.endpointClassVendorReserved dir type bRequest wValue wIndex wLength) := fun _ => setupWord_sized ..

theorem setupInterfaceForward (dir : Bool) (type : BitVec 2) (bRequest : Byte) (wValue wIndex wLength : BitVec 16) :
    Statement (.setupInterfaceForward dir type bRequest wValue wIndex wLength) := fun _ => setupWord_sized ..

theorem setupOtherRecipient (dir : Bool) (type : BitVec 2) (recip : BitVec 5) (bRequest : Byte) (wValue wIndex wLength : BitVec 16) :
    Statement (.setupOtherRecipient dir type recip bRequest wValue wIndex wLength) := fun _ => setupWord_sized ..

theorem getMaxLun (wValue wIndex wLength : BitVec 16) :
    Statement (.getMaxLun wValue wIndex wLength) := fun _ => rfl

theorem bulkOnlyMassStorageReset (wValue wIndex : BitVec 16) :
    Statement (.bulkOnlyMassStorageReset wValue wIndex) := fun _ => rfl

theorem classreqOther (bmRequestType bRequest : Byte) (wValue wIndex wLength : BitVec 16) :
    Statement (.classreqOther bmRequestType bRequest wValue wIndex wLength) := fun _ => rfl

theorem cbw (tag dataLength : BitVec 32) (flags cbLength : Byte) (cdb : Vector Byte 16) :
    Statement (.cbw tag dataLength flags cbLength cdb) := by
  intro _
  left
  simp [encode, le32Bytes]

theorem cbwMalformed (bytes : List Byte) :
    Statement (.cbwMalformed bytes) := by
  intro h
  right
  simpa [Instr.wf, encode] using h

theorem testUnitReady :
    Statement .testUnitReady := fun _ => rfl

theorem requestSense :
    Statement .requestSense := fun _ => rfl

theorem inquiry :
    Statement .inquiry := fun _ => rfl

theorem modeSense6 :
    Statement .modeSense6 := fun _ => rfl

theorem startStopUnit :
    Statement .startStopUnit := fun _ => rfl

theorem preventAllowMediumRemoval :
    Statement .preventAllowMediumRemoval := fun _ => rfl

theorem readFormatCapacities :
    Statement .readFormatCapacities := fun _ => rfl

theorem readCapacity10 :
    Statement .readCapacity10 := fun _ => rfl

theorem read10 (lba : BitVec 32) (count : BitVec 16) :
    Statement (.read10 lba count) := fun _ => rfl

theorem write10 (lba : BitVec 32) (count : BitVec 16) :
    Statement (.write10 lba count) := fun _ => rfl

theorem verify10 (lba : BitVec 32) (count : BitVec 16) :
    Statement (.verify10 lba count) := fun _ => rfl

theorem modeSense10 :
    Statement .modeSense10 := fun _ => rfl

theorem cdbUnsupported (opcode : Byte) :
    Statement (.cdbUnsupported opcode) := fun _ => rfl

end Sys2Proof.Laws.EncodesWell
end

