-- ==== Sys2Proof/Laws/Requests.lean ====
section
/-!
SUPPORT. What recording a request leaves, for every row, and the answers made of bytes of the block's own: what the meanings of the SETUP and
CLASSREQ rows are built from.
-/

namespace Sys2Proof.Machine

/-! ## Byte order -/

theorem le16_toNat (a b : Byte) : (le16 a b).toNat = a.toNat + 256 * b.toNat := by
  have ha := a.isLt
  simp only [le16, BitVec.toNat_append]
  rw [Nat.shiftLeft_eq, Nat.mul_comm, ← Nat.two_pow_add_eq_or_of_lt ha]
  omega

theorem le16_octets (v : BitVec 16) : le16 (octet v 0) (octet v 1) = v := by
  unfold le16 octet
  apply BitVec.eq_of_toNat_eq
  have hv := v.isLt
  rw [BitVec.toNat_append, Nat.shiftLeft_eq, Nat.mul_comm, ← Nat.two_pow_add_eq_or_of_lt (BitVec.isLt _)]
  simp only [BitVec.extractLsb'_toNat, Nat.shiftRight_eq_div_pow]
  omega

/-! ## Recording (41 R202) -/

/-- Recording the bytes of a SETUP row leaves the session of that row. -/
theorem beginRequest_setup {x : Instr} {d : Bool} {t : BitVec 2} {p : BitVec 5} {r : Byte} {v i l : BitVec 16}
    (h : encode x = setupWord d t p r v i l) (s : State) :
    beginRequest (setupBytes d t p r v i l) s = s.withCtl (recorded x s.ctl) := by
  unfold beginRequest recorded requestOf lengthOf
  rw [h]
  simp only [le16_toNat]
  rfl

/-- Recording the bytes of a CLASSREQ row leaves the session of that row. -/
theorem beginRequest_classReq {x : Instr} {m r : Byte} {v i l : BitVec 16} {b : Vector Byte 8}
    (h : encode x = classReqWord m r v i l) (hb : b.toList = (classReqWord m r v i l).bytes) (s : State) :
    beginRequest b s = s.withCtl (recorded x s.ctl) := by
  have hb' : b = #v[m, r, octet v 0, octet v 1, octet i 0, octet i 1, octet l 0, octet l 1] := by
    apply Vector.toList_inj.mp
    rw [hb]
    rfl
  unfold beginRequest recorded requestOf lengthOf
  rw [h, hb']
  simp only [le16_toNat]
  rfl

/-! ## Answers in `scratch` (41 R206) -/

/-- A response written to `scratch` and sent. -/
theorem sendScratch_answers {s : State} (c : Control) {full : List Byte} (h : ControlReady s) (hc : c.ctrlState = .setup)
    (hs : c.scratch = s.ctl.scratch) (hf : full.length ≤ ctrlBufSize s.cfg) :
    Answered .scratch full c s (sendScratch full (s.withCtl c)) := by
  have key : sendScratch full (s.withCtl c)
      = ctlSend .scratch full.length (s.withCtl { c with scratch := memWrite c.scratch 0 full }) := rfl
  rw [key]
  refine ctlSend_answers (s := s) { c with scratch := memWrite c.scratch 0 full } h hc ?_ ?_ ?_
  · refine decide_eq_true (.inr ?_)
    show 0 + _ ≤ ctrlBufSize s.cfg
    omega
  · have := bytesOf_memWrite .scratch s.epoch c.scratch 0 full
    simpa [bufRead, bytesOf] using this
  · intro i hi
    show byteOf .scratch s.epoch (memWrite c.scratch 0 full) i = byteOf .scratch s.epoch s.ctl.scratch i
    rw [byteOf_memWrite_out _ _ _ _ _ (.inr (by simpa using hi)), hs]

end Sys2Proof.Machine
end

