-- ==== Sys2Proof/Tests/Slice0.lean ====
section
/-!
SUPPORT. Tests: ill-formed instructions are refused, words written out from the spec's encodings decode, single steps give the values of
95_test_vectors, and for every statement with hypotheses a state and operands that meet them.
-/

namespace Sys2Proof.Tests

set_option Elab.async false

open Sys2Proof.Machine

/-! ## Well-formedness: an ill-formed instruction for each check -/

theorem test_wf_pmaAlloc : (Instr.pmaAlloc (2 ^ 32)).wf = false ∧ (Instr.pmaAlloc (2 ^ 32 - 1)).wf = true := by decide
theorem test_wf_hostSetup : (Instr.hostSetup 0 (List.replicate 65 0)).wf = false := by decide
theorem test_wf_hostOut_direction : (Instr.hostOut 0 ⟨true, 1⟩ []).wf = false := by decide
theorem test_wf_hostOut_length : (Instr.hostOut 0 ⟨false, 1⟩ (List.replicate 1024 0)).wf = false := by
  simp only [Instr.wf, List.length_replicate]
  decide
theorem test_wf_hostIn : (Instr.hostIn 0 ⟨false, 1⟩).wf = false := by decide
theorem test_wf_descriptorType : (Instr.getDescriptorOtherType true 3 0 0 0).wf = false := by decide
theorem test_wf_deviceReserved : (Instr.deviceStandardReserved false 5 0 0 0).wf = false := by decide
theorem test_wf_deviceType : (Instr.deviceClassVendorReserved false 0 5 0 0 0).wf = false := by decide
theorem test_wf_endpointOther : (Instr.endpointStandardOther false 12 0 0 0).wf = false := by decide
theorem test_wf_endpointType : (Instr.endpointClassVendorReserved false 0 1 0 0 0).wf = false := by decide
theorem test_wf_recipient : (Instr.setupOtherRecipient false 0 2 0 0 0 0).wf = false := by decide
theorem test_wf_classreqOther : (Instr.classreqOther 0x21 0xFF 0 0 0).wf = false
    ∧ (Instr.classreqOther 0x21 0xFF 0 0 1).wf = true := by decide
theorem test_wf_cbw : (Instr.cbw 0 0 0 0 (Vector.replicate 16 0)).wf = false
    ∧ (Instr.cbw 0 0 0 17 (Vector.replicate 16 0)).wf = false := by decide
theorem test_wf_cbwMalformed :
    (Instr.cbwMalformed ([0x55, 0x53, 0x42, 0x43] ++ List.replicate 9 0 ++ [0, 6] ++ List.replicate 16 0)).wf = false := by decide
theorem test_wf_cdbUnsupported : (Instr.cdbUnsupported 0x28).wf = false := by decide

/-! ## Decoding: a word for every constructor, from the encodings of 30_encoding and opcode_table.json -/

theorem test_decode_epOpen :
    decode ⟨.op, [0x01, 0x82, 0x03, 0x08, 0x00, 0x04, 0x07]⟩ = .ok (.epOpen ⟨true, 2⟩ .interrupt 8 (.cls 7)) := rfl
theorem test_decode_epClose : decode ⟨.op, [0x02, 0x01]⟩ = .ok (.epClose ⟨false, 1⟩) := rfl
theorem test_decode_epRead :
    decode ⟨.op, [0x03, 0x01, 8, 0x40, 0, 0, 0, 0x00, 0x01, 0, 0, 0x00, 0x04, 0, 0, 0x00, 0x02, 0, 0]⟩
      = .ok (.epRead ⟨false, 1⟩ ⟨.app 256 1024, 64⟩ 512) := rfl
theorem test_decode_epWrite :
    decode ⟨.op, [0x04, 0x81, 2, 0, 0, 0, 0, 0, 0, 0, 0, 0, 0, 0, 0, 0x0D, 0, 0, 0]⟩ = .ok (.epWrite ⟨true, 1⟩ .work 13) := rfl
theorem test_decode_epWriteZlp : decode ⟨.op, [0x05, 0x80]⟩ = .ok (.epWriteZlp ⟨true, 0⟩) := rfl
theorem test_decode_epStall : decode ⟨.op, [0x06, 0x81]⟩ = .ok (.epStall ⟨true, 1⟩) := rfl
theorem test_decode_epDestall : decode ⟨.op, [0x07, 0x0F]⟩ = .ok (.epDestall ⟨false, 15⟩) := rfl
theorem test_decode_epIsOpen : decode ⟨.op, [0x08, 0x83]⟩ = .ok (.epIsOpen ⟨true, 3⟩) := rfl
theorem test_decode_epIsStalled : decode ⟨.op, [0x09, 0x03]⟩ = .ok (.epIsStalled ⟨false, 3⟩) := rfl
theorem test_decode_pmaAlloc : decode ⟨.op, [0x0A, 0x40, 0x01, 0, 0]⟩ = .ok (.pmaAlloc 320) := rfl
theorem test_decode_ctlSend :
    decode ⟨.op, [0x10, 0x06, 0, 0, 0, 0, 0, 0, 0, 0, 0, 0, 0, 0, 0x12, 0x00]⟩ = .ok (.ctlSend .deviceDesc 18) := rfl
theorem test_decode_ctlReceive :
    decode ⟨.op, [0x11, 0x01, 5, 0, 0, 0, 0, 0, 0, 0, 0, 0, 0, 0, 0x07, 0x00]⟩ = .ok (.ctlReceive ⟨.scratch, 5⟩ 7) := rfl
theorem test_decode_hostBusReset : decode ⟨.op, [0x20]⟩ = .ok .hostBusReset := rfl
theorem test_decode_hostSetup : decode ⟨.op, [0x21, 0x05, 0x00, 0x09, 0x01, 0, 0, 0, 0, 0]⟩
    = .ok (.hostSetup 5 [0x00, 0x09, 0x01, 0, 0, 0, 0, 0]) := rfl
theorem test_decode_hostOut : decode ⟨.op, [0x22, 0x7F, 0x01]⟩ = .ok (.hostOut 127 ⟨false, 1⟩ []) := rfl
theorem test_decode_hostIn : decode ⟨.op, [0x23, 0x05, 0x81]⟩ = .ok (.hostIn 5 ⟨true, 1⟩) := rfl
theorem test_decode_hostSuspend : decode ⟨.op, [0x24]⟩ = .ok .hostSuspend := rfl
theorem test_decode_hostResume : decode ⟨.op, [0x25]⟩ = .ok .hostResume := rfl
theorem test_decode_evReset : decode ⟨.op, [0x30]⟩ = .ok .evReset := rfl
theorem test_decode_evCtr : decode ⟨.op, [0x31, 0x80]⟩ = .ok (.evCtr ⟨true, 0⟩) := rfl
theorem test_decode_evSuspend : decode ⟨.op, [0x32]⟩ = .ok .evSuspend := rfl
theorem test_decode_evResume : decode ⟨.op, [0x33]⟩ = .ok .evResume := rfl
theorem test_decode_rstPowerOn : decode ⟨.op, [0x00]⟩ = .ok .rstPowerOn := rfl
theorem test_decode_badOperands :
    decode ⟨.op, []⟩ = .error .emptyWord ∧ decode ⟨.op, [0x26]⟩ = .error .unknownCode ∧ decode ⟨.op, [0x02]⟩ = .error .badLength
      ∧ decode ⟨.op, [0x01, 0x81, 0x04, 0x40, 0x00, 0x02, 0x00]⟩ = .error .badEpType
      ∧ decode ⟨.op, [0x01, 0x81, 0x02, 0x40, 0x00, 0x05, 0x00]⟩ = .error .badCallback
      ∧ decode ⟨.op, [0x10, 0x09, 0, 0, 0, 0, 0, 0, 0, 0, 0, 0, 0, 0, 0, 0]⟩ = .error .badBuffer
      ∧ decode ⟨.op, [0x10, 0x01, 0, 0, 0, 0, 1, 0, 0, 0, 0, 0, 0, 0, 0, 0]⟩ = .error .badBuffer
      ∧ decode ⟨.op, [0x23, 0x80, 0x81]⟩ = .error .badAddress := ⟨rfl, rfl, rfl, rfl, rfl, rfl, rfl, rfl⟩

theorem test_decode_getStatusDevice : decode ⟨.setup, [0x80, 0x00, 0, 0, 0, 0, 2, 0]⟩ = .ok (.getStatusDevice true 0 0 2) := rfl
theorem test_decode_clearFeatureDevice : decode ⟨.setup, [0x00, 0x01, 1, 0, 0, 0, 0, 0]⟩ = .ok (.clearFeatureDevice false 1 0 0) := rfl
theorem test_decode_setFeatureDevice : decode ⟨.setup, [0x00, 0x03, 1, 0, 0, 0, 0, 0]⟩ = .ok (.setFeatureDevice false 1 0 0) := rfl
theorem test_decode_setAddress : decode ⟨.setup, [0x00, 0x05, 5, 0, 0, 0, 0, 0]⟩ = .ok (.setAddress false 5 0 0) := rfl
theorem test_decode_getDescriptorDevice :
    decode ⟨.setup, [0x80, 0x06, 0x00, 0x01, 0, 0, 0x40, 0]⟩ = .ok (.getDescriptorDevice true 0 0 64) := rfl
theorem test_decode_getDescriptorConfiguration :
    decode ⟨.setup, [0x80, 0x06, 0x00, 0x02, 0, 0, 0xFF, 0]⟩ = .ok (.getDescriptorConfiguration true 0 0 255) := rfl
theorem test_decode_getDescriptorString :
    decode ⟨.setup, [0x80, 0x06, 0x02, 0x03, 0x09, 0x04, 0xFF, 0]⟩ = .ok (.getDescriptorString true 2 0x0409 255) := rfl
theorem test_decode_getDescriptorDeviceQualifier :
    decode ⟨.setup, [0x80, 0x06, 0x00, 0x06, 0, 0, 0x0A, 0]⟩ = .ok (.getDescriptorDeviceQualifier true 0 0 10) := rfl
theorem test_decode_getDescriptorOtherSpeedConfiguration :
    decode ⟨.setup, [0x80, 0x06, 0x00, 0x07, 0, 0, 0x0A, 0]⟩ = .ok (.getDescriptorOtherSpeedConfiguration true 0 0 10) := rfl
theorem test_decode_getDescriptorOtherType :
    decode ⟨.setup, [0x80, 0x06, 0x01, 0x04, 0, 0, 0x0A, 0]⟩ = .ok (.getDescriptorOtherType true 4 1 0 10) := rfl
theorem test_decode_setDescriptor : decode ⟨.setup, [0x00, 0x07, 0, 1, 0, 0, 18, 0]⟩ = .ok (.setDescriptor false 256 0 18) := rfl
theorem test_decode_getConfiguration : decode ⟨.setup, [0x80, 0x08, 0, 0, 0, 0, 1, 0]⟩ = .ok (.getConfiguration true 0 0 1) := rfl
theorem test_decode_setConfiguration : decode ⟨.setup, [0x00, 0x09, 1, 0, 0, 0, 0, 0]⟩ = .ok (.setConfiguration false 1 0 0) := rfl
theorem test_decode_getInterfaceDevice : decode ⟨.setup, [0x80, 0x0A, 0, 0, 0, 0, 1, 0]⟩ = .ok (.getInterfaceDevice true 0 0 1) := rfl
theorem test_decode_setInterfaceDevice : decode ⟨.setup, [0x00, 0x0B, 0, 0, 1, 0, 0, 0]⟩ = .ok (.setInterfaceDevice false 0 1 0) := rfl
theorem test_decode_synchFrameDevice : decode ⟨.setup, [0x80, 0x0C, 0, 0, 0, 0, 2, 0]⟩ = .ok (.synchFrameDevice true 0 0 2) := rfl
theorem test_decode_deviceStandardReserved :
    decode ⟨.setup, [0x00, 0x04, 0, 0, 0, 0, 0, 0]⟩ = .ok (.deviceStandardReserved false 4 0 0 0) := rfl
theorem test_decode_deviceClassVendorReserved :
    decode ⟨.setup, [0x60, 0x05, 0, 0, 0, 0, 0, 0]⟩ = .ok (.deviceClassVendorReserved false 3 5 0 0 0) := rfl
theorem test_decode_getStatusEndpoint :
    decode ⟨.setup, [0x82, 0x00, 0, 0, 0x81, 0, 2, 0]⟩ = .ok (.getStatusEndpoint true 0 0x81 2) := rfl
theorem test_decode_clearFeatureEndpoint :
    decode ⟨.setup, [0x02, 0x01, 0, 0, 0x81, 0, 0, 0]⟩ = .ok (.clearFeatureEndpoint false 0 0x81 0) := rfl
theorem test_decode_setFeatureEndpoint :
    decode ⟨.setup, [0x02, 0x03, 0, 0, 0x01, 0, 0, 0]⟩ = .ok (.setFeatureEndpoint false 0 1 0) := rfl
theorem test_decode_synchFrameEndpoint :
    decode ⟨.setup, [0x82, 0x0C, 0, 0, 0x81, 0, 2, 0]⟩ = .ok (.synchFrameEndpoint true 0 0x81 2) := rfl
theorem test_decode_endpointStandardOther :
    decode ⟨.setup, [0x02, 0x05, 0, 0, 0x81, 0, 0, 0]⟩ = .ok (.endpointStandardOther false 5 0 0x81 0) := rfl
theorem test_decode_endpointClassVendorReserved :
    decode ⟨.setup, [0x22, 0x00, 0, 0, 0x81, 0, 0, 0]⟩ = .ok (.endpointClassVendorReserved false 1 0 0 0x81 0) := rfl
theorem test_decode_setupInterfaceForward :
    decode ⟨.setup, [0xA1, 0xFE, 0, 0, 0, 0, 1, 0]⟩ = .ok (.setupInterfaceForward true 1 0xFE 0 0 1) := rfl
theorem test_decode_setupOtherRecipient :
    decode ⟨.setup, [0xDF, 0x33, 0, 0, 0, 0, 0, 0]⟩ = .ok (.setupOtherRecipient true 2 31 0x33 0 0 0) := rfl
theorem test_decode_getMaxLun : decode ⟨.classReq, [0xA1, 0xFE, 0, 0, 0, 0, 1, 0]⟩ = .ok (.getMaxLun 0 0 1) := rfl
theorem test_decode_bulkOnlyMassStorageReset :
    decode ⟨.classReq, [0x21, 0xFF, 0, 0, 0, 0, 0, 0]⟩ = .ok (.bulkOnlyMassStorageReset 0 0) := rfl
theorem test_decode_classreqOther :
    decode ⟨.classReq, [0x21, 0xFF, 0, 0, 0, 0, 1, 0]⟩ = .ok (.classreqOther 0x21 0xFF 0 0 1) := rfl

/-- A CBW of the given CDB bytes, of zero length, tag and flags. -/
def cbwOf (n : Byte) (cdb : List Byte) : List Byte := [0x55, 0x53, 0x42, 0x43] ++ List.replicate 9 0 ++ [0, n] ++ cdb

theorem test_decode_cbw : decode ⟨.cbw, cbwOf 6 (List.replicate 16 0)⟩ = .ok (.cbw 0 0 0 6 (Vector.replicate 16 0)) := rfl
theorem test_decode_cbwMalformed :
    decode ⟨.cbw, cbwOf 17 (List.replicate 16 0)⟩ = .ok (.cbwMalformed (cbwOf 17 (List.replicate 16 0)))
      ∧ decode ⟨.cbw, cbwOf 6 (List.replicate 15 0)⟩ = .ok (.cbwMalformed (cbwOf 6 (List.replicate 15 0))) := ⟨rfl, rfl⟩

/-- Sixteen CDB bytes from the bytes that are not trailing zeros. -/
def cdbWord (bs : List Byte) : OpWord := ⟨.cdb, (bs ++ List.replicate 16 0).take 16⟩

theorem test_decode_testUnitReady : decode (cdbWord [0x00]) = .ok .testUnitReady ∧ decode ⟨.cdb, List.replicate 6 0⟩ = .ok .testUnitReady
    ∧ decode ⟨.cdb, []⟩ = .error .badLength ∧ decode ⟨.cdb, List.replicate 17 0⟩ = .error .badLength := ⟨rfl, rfl, rfl, rfl⟩
theorem test_decode_requestSense : decode (cdbWord [0x03, 0, 0, 0, 0x12]) = .ok .requestSense := rfl
theorem test_decode_inquiry : decode (cdbWord [0x12, 0, 0, 0, 0x24]) = .ok .inquiry := rfl
theorem test_decode_modeSense6 : decode (cdbWord [0x1A, 0, 0x3F, 0, 0xC0]) = .ok .modeSense6 := rfl
theorem test_decode_startStopUnit : decode (cdbWord [0x1B, 0, 0, 0, 0x02]) = .ok .startStopUnit := rfl
theorem test_decode_preventAllowMediumRemoval : decode (cdbWord [0x1E, 0, 0, 0, 0x01]) = .ok .preventAllowMediumRemoval := rfl
theorem test_decode_readFormatCapacities : decode (cdbWord [0x23, 0, 0, 0, 0, 0, 0, 0, 0xFC]) = .ok .readFormatCapacities := rfl
theorem test_decode_readCapacity10 : decode (cdbWord [0x25]) = .ok .readCapacity10 := rfl
theorem test_decode_read10 : decode (cdbWord [0x28, 0, 0, 0, 0, 0x63, 0, 0, 2]) = .ok (.read10 99 2) := rfl
theorem test_decode_write10 : decode (cdbWord [0x2A, 0, 1, 2, 3, 4, 0, 5, 6]) = .ok (.write10 0x01020304 0x0506) := rfl
theorem test_decode_verify10 : decode (cdbWord [0x2F, 0, 0, 0, 0, 9, 0, 0, 1]) = .ok (.verify10 9 1) := rfl
theorem test_decode_modeSense10 : decode (cdbWord [0x5A, 0, 0x3F, 0, 0, 0, 0, 0, 0xC0]) = .ok .modeSense10 := rfl
theorem test_decode_cdbUnsupported : decode (cdbWord [0x35]) = .ok (.cdbUnsupported 0x35) := rfl

/-! ## The host's numbering of the table (assumption log 17) -/

theorem test_table_op : decodeTableWord 8 0x02 = some (.epClose ⟨false, 0⟩) := rfl
theorem test_table_cdb : decodeTableWord 8 0x28 = some (.read10 0 0) := rfl
theorem test_table_setup : decodeTableWord 16 0x8008 = some (.getConfiguration true 0 0 0) := rfl
theorem test_table_classReq : decodeTableWord 16 0xA1FE = some (.getMaxLun 0 0 0) := rfl
theorem test_table_step : step (State.reset.withFetchWord 8 0x20) = exec .hostBusReset State.reset := rfl

/-! ## Single steps, with the values of 95_test_vectors -/

/-- The state an instruction leaves, or the state it found where it stops. -/
def after (i : Instr) (s : State) : State :=
  match exec i s with
  | .next t => t
  | .fault _ => s
  | .refused _ => s

/-- The bulk pair's addresses under EXAMPLE_CFG. -/
def bulkIn : EpAddr := ⟨true, 1⟩

def bulkOut : EpAddr := ⟨false, 1⟩

/-- A device with address 5 and nothing else done ("A" of 95 section 2.4). -/
def addressed : State :=
  (State.reset.modCtl (fun c => { c with address := 5, devState := .addressed })).modPeriph (fun p => { p with hwAddress := 5 })

/-- "Configured" of 95 section 0. -/
def configured : State :=
  (((((addressed.modCtl (fun c => { c with config := 1, devState := .configured, classActive := true })).modEp bulkIn (fun _ =>
      ⟨true, .bulk, 64, false, 192, 0, false, .none, 0, 0, some .botIn, false, 0⟩)).modHw bulkIn (fun h => { h with stat := .nak })).modEp
    bulkOut (fun _ => ⟨true, .bulk, 64, false, 256, 0, false, .cbw, 64, 0, some .botOut, true, 0⟩)).modHw bulkOut
    (fun h => { h with stat := .valid })).modScsi (fun c => { c with medium := true, totalBlocks := 100, writeCapable := true })
    |>.setPmaNext 320

/-- A device whose handler is between decoding a request of `n` bytes and answering it (41 R202). -/
def decoding (n : Nat) (s : State) : State := s.modCtl (fun c => { c with ctrlState := .setup, ctrlLen := n })

/-- A packet of `n` bytes received on an endpoint and not serviced (40 R172). -/
def received (a : EpAddr) (n : Nat) (s : State) : State := s.modHw a (fun h => { h with ctr := true, stat := .nak, count := n })

/-- A machine whose sticky fault is set. -/
def faulted : State := State.reset.raise .badOperand

/-- A CBW read's data-stage parameters in the sequencer. -/
def commanded (flags : Byte) (len : Nat) (s : State) : State := s.modBot (fun b => { b with flags := flags, dataLength := len })

/-- V10. -/
theorem test_epOpen_in : ((after (.epOpen bulkIn .bulk 64 (.cls 0)) State.reset).ep bulkIn).off0 = 192
    ∧ (after (.epOpen bulkIn .bulk 64 (.cls 0)) State.reset).pmaNext = 256
    ∧ ((after (.epOpen bulkIn .bulk 64 (.cls 0)) State.reset).hw bulkIn).stat = .nak := by decide +kernel

/-- V18. -/
theorem test_epOpen_mps : (after (.epOpen bulkOut .bulk 1024 (.cls 0)) State.reset).fault = some .badOperand := by decide +kernel

/-- V38. -/
theorem test_epClose : ((after (.epClose bulkIn) configured).hw bulkIn).stat = .disabled
    ∧ (after (.epClose bulkIn) configured).pmaNext = 320 := by decide +kernel

/-- V19, V20. -/
theorem test_epClose_faults : (after (.epClose ⟨true, 2⟩) State.reset).fault = some .epNotOpen
    ∧ (after (.epClose ⟨false, 8⟩) State.reset).fault = some .badOperand := by decide +kernel

/-- V33: a read on a stalled endpoint is recorded, the handshake stays STALL. -/
theorem test_epRead_stalled :
    ((after (.epRead bulkOut .work 64) (after (.epStall bulkOut) configured)).ep bulkOut).remaining = 64
    ∧ ((after (.epRead bulkOut .work 64) (after (.epStall bulkOut) configured)).hw bulkOut).stat = .stall := by decide +kernel

/-- V23: the first packet of 130 bytes is 64 bytes long, and its last byte is byte 63 of the buffer. -/
theorem test_epWrite : ((after (.epWrite bulkIn .work 130) (bufWrite .work 63 [0x3F] configured)).hw bulkIn).count = 64
    ∧ pmaByte (after (.epWrite bulkIn .work 130) (bufWrite .work 63 [0x3F] configured)) 255 = 0x3F := by decide +kernel

/-- 20_memory R72: a transfer up to the last byte of a class array runs, one byte more faults; the offset counts. -/
theorem test_buffer_end : (after (.epWrite bulkIn ⟨.app 256 64, 60⟩ 4) configured).fault = none
    ∧ (after (.epWrite bulkIn ⟨.app 256 64, 60⟩ 5) configured).fault = some .bufOverrun
    ∧ (after (.epRead bulkOut ⟨.work, 500⟩ 13) configured).fault = some .bufOverrun := by decide +kernel

/-- V25. -/
theorem test_epWriteZlp : ((after (.epWriteZlp bulkIn) configured).hw bulkIn).count = 0
    ∧ ((after (.epWriteZlp bulkIn) configured).hw bulkIn).stat = .valid := by decide +kernel

/-- V31, V32. -/
theorem test_epStall_epDestall : ((after (.epStall bulkIn) configured).hw bulkIn).stat = .stall
    ∧ ((after (.epDestall bulkIn) (after (.epStall bulkIn) configured)).hw bulkIn).stat = .nak := by decide +kernel

/-- V39, V40. -/
theorem test_queries : (after (.epIsOpen ctlIn) State.reset).ret = .bool true
    ∧ (after (.epIsOpen ⟨true, 8⟩) State.reset).ret = .bool false
    ∧ (after (.epIsStalled ctlOut) (after (.setDescriptor false 256 0 18) State.reset)).ret = .bool true := by decide +kernel

/-- V3, V5. -/
theorem test_pmaAlloc : (after (.pmaAlloc 320) State.reset).pmaNext = 512 ∧ (after (.pmaAlloc 320) State.reset).ret = .offset 192
    ∧ (after (.pmaAlloc 321) State.reset).fault = some .pmaOverflow := by decide +kernel

/-- 41 R206: wLength cuts what CTL_SEND sends. -/
theorem test_ctlSend : ((after (.ctlSend .deviceDesc 18) (decoding 8 State.reset)).hw ctlIn).count = 8
    ∧ pmaByte (after (.ctlSend .deviceDesc 18) (decoding 8 State.reset)) 128 = 0x12
    ∧ (after (.ctlSend .deviceDesc 18) (decoding 8 State.reset)).ctl.ctrlState = .dataIn := by decide +kernel

/-- 41 R207. -/
theorem test_ctlReceive : ((after (.ctlReceive .scratch 7) (decoding 64 State.reset)).ep ctlOut).remaining = 7
    ∧ (after (.ctlReceive .scratch 7) (decoding 64 State.reset)).ctl.ctrlState = .dataOut := by decide +kernel

/-- V56, V7. -/
theorem test_hostBusReset : (after .hostBusReset configured).periph.hwAddress = 0
    ∧ ((after .hostBusReset configured).hw bulkIn).stat = .disabled
    ∧ (after .evReset (after .hostBusReset configured)).pmaNext = 192
    ∧ (after .evReset (after .hostBusReset configured)).ctl.devState = .default := by decide +kernel

/-- V62. -/
theorem test_hostSetup : (after (.hostSetup 0 [0x80, 6, 0, 1, 0, 0, 0x40, 0]) State.reset).lastOut = .ack
    ∧ ((after (.hostSetup 0 [0x80, 6, 0, 1, 0, 0, 0x40, 0]) State.reset).hw ctlOut).setup = true
    ∧ ((after (.hostSetup 0 [0x80, 6, 0, 1, 0, 0, 0x40, 0]) State.reset).hw ctlIn).dtog = true := by decide +kernel

/-- V52: a second packet before the first is serviced. -/
theorem test_hostOut : (after (.hostOut 5 bulkOut [1, 2]) configured).lastOut = .ack
    ∧ (after (.hostOut 5 bulkOut [3]) (after (.hostOut 5 bulkOut [1, 2]) configured)).lastOut = .nak := by decide +kernel

/-- V54, V25. -/
theorem test_hostIn : (after (.hostIn 3 ctlIn) State.reset).lastOut = .none
    ∧ (after (.hostIn 5 bulkIn) (after (.epWriteZlp bulkIn) configured)).lastOut = .data false [] := by decide +kernel

/-- V58, V59. -/
theorem test_suspend : (after .evSuspend (after .hostSuspend configured)).ctl.devState = .suspended
    ∧ (after .evSuspend (after .hostSuspend configured)).ctl.savedState = .configured
    ∧ (after .evResume (after .hostResume (after .evSuspend (after .hostSuspend configured)))).ctl.devState = .configured := by
  decide +kernel

/-- 40 R174, 60 R334: a second HOST_SUSPEND before servicing changes nothing, not even the outcome of the transaction between. -/
theorem test_suspend_twice :
    after .hostSuspend (after (.hostIn 5 bulkIn) (after .hostSuspend configured)) = after (.hostIn 5 bulkIn) (after .hostSuspend configured)
    ∧ (after (.hostIn 5 bulkIn) (after .hostSuspend configured)).lastOut = .nak := by decide +kernel

/-- 10_state R41 after a bus reset: a closed endpoint's status is zero, and a suspend signalled after the reset is gone. -/
theorem test_evReset_values :
    (after .evReset (after .hostSuspend (after .hostBusReset (received bulkIn 13 configured)))).hw bulkIn = EpHw.disabled
    ∧ (after .evReset (after .hostSuspend (after .hostBusReset configured))).periph.pendSuspend = false := by decide +kernel

/-- The state a step leaves, or the state it found where it stops. -/
def stepped (s : State) : State :=
  match step s with
  | .next t => t
  | .fault _ => s
  | .refused _ => s

/-- 40 R177, R176: a stopped peripheral answers nothing; started again, it answers. -/
theorem test_peripheralStop :
    (after (.hostIn 5 bulkIn) (stepped (withWord ⟨.periph, [2]⟩ configured))).lastOut = .none
    ∧ (after (.hostIn 5 bulkIn) (stepped (withWord ⟨.periph, [1]⟩ (stepped (withWord ⟨.periph, [2]⟩ configured))))).lastOut = .nak
    ∧ ((stepped (withWord ⟨.periph, [0]⟩ configured)).hw bulkOut).stat = .disabled := by decide +kernel

/-- 41 R203: a control request of another length stalls the pipe and is not recorded. -/
theorem test_setup_length : (stepped (withWord ⟨.setup, [0x80, 6, 0]⟩ configured)).ctl.ctrlState = .stall
    ∧ (stepped (withWord ⟨.setup, [0x80, 6, 0]⟩ configured)).ctl.req = configured.ctl.req := by decide +kernel

/-- 60 R339: a class may name the control pair. -/
theorem test_class_endpoint0 : ((classActs [.call (.epStall ctlIn)] configured).hw ctlIn).stat = .stall := by decide +kernel

/-- V60. -/
theorem test_hostResume : (after .hostResume (after .hostSuspend configured)) = configured := by decide +kernel

/-- E1: the SETUP serviced, then the status IN. -/
theorem test_evCtr_setAddress :
    (after (.evCtr ctlOut) (after (.hostSetup 0 [0x00, 0x05, 5, 0, 0, 0, 0, 0]) State.reset)).ctl.pendingAddr = some 5
    ∧ (after (.evCtr ctlOut) (after (.hostSetup 0 [0x00, 0x05, 5, 0, 0, 0, 0, 0]) State.reset)).periph.hwAddress = 0 := by
  decide +kernel

/-- V29: a zero-length read takes a packet and stores none of it. -/
theorem test_evCtr_out :
    ((after (.evCtr bulkOut) (received bulkOut 3 (after (.epRead bulkOut .work 0) configured))).ep bulkOut).transferred = 0
    ∧ ((after (.evCtr bulkOut) (received bulkOut 3 (after (.epRead bulkOut .work 0) configured))).ep bulkOut).active = false := by
  decide +kernel

/-- 10_state R41, 70 R372. -/
theorem test_rstPowerOn : (after .rstPowerOn configured).pmaNext = 192
    ∧ (after .rstPowerOn configured).ctl.devState = .default ∧ (after .rstPowerOn configured).scsi.medium = false := by decide +kernel

/-- V63, V64. -/
theorem test_getStatusDevice : pmaByte (after (.getStatusDevice true 0 0 2) State.reset) 128 = 0
    ∧ ((after (.getStatusDevice true 0 0 2) State.reset).hw ctlIn).count = 2
    ∧ ((after (.getStatusDevice true 0 0 1) State.reset).hw ctlIn).stat = .stall := by decide +kernel

/-- V65, V66, V67. -/
theorem test_features : (after (.setFeatureDevice false 1 0 0) State.reset).ctl.remoteWakeup = true
    ∧ (after (.clearFeatureDevice false 1 0 0) (after (.setFeatureDevice false 1 0 0) State.reset)).ctl.remoteWakeup = false
    ∧ (after (.setFeatureDevice false 2 0 0) State.reset).ctl.remoteWakeup = false := by decide +kernel

/-- A configured device that got SET_ADDRESS(7) and was suspended before servicing it; the suspend is serviced first, as 60 R335 lets
it be. -/
def suspendedWithSetup : State :=
  after .evSuspend (after .hostSuspend (after (.hostSetup 5 [0x00, 0x05, 7, 0, 0, 0, 0, 0]) configured))

/-- 41 R223: dev_state is Suspended, not Configured, so the request is taken; no rule deinitialises the class. -/
theorem test_setAddress_suspended : suspendedWithSetup.ctl.devState = .suspended
    ∧ (after (.evCtr ctlOut) suspendedWithSetup).ctl.pendingAddr = some 7
    ∧ (after (.evCtr ctlOut) suspendedWithSetup).ctl.devState = .addressed
    ∧ (after (.evCtr ctlOut) suspendedWithSetup).ctl.classActive = true := by
  decide +kernel

/-- V70a, V70b. -/
theorem test_setAddress : (after (.setAddress false 128 0 0) State.reset).ctl.ctrlState = .stall
    ∧ (after (.setAddress false 5 1 0) State.reset).ctl.ctrlState = .stall
    ∧ (after (.setAddress false 127 0 0) State.reset).ctl.pendingAddr = some 127 := by decide +kernel

/-- V72, V72b. -/
theorem test_setConfiguration : (after (.setConfiguration false 0 0 0) configured).ctl.devState = .addressed
    ∧ ((after (.setConfiguration false 0 0 0) configured).ep bulkIn).isOpen = false
    ∧ (after (.setConfiguration false 2 0 0) addressed).ctl.ctrlState = .stall := by decide +kernel

/-- V71. -/
theorem test_setConfiguration_again : ((after (.setConfiguration false 1 0 0) configured).ep bulkOut).off0 = 384
    ∧ (after (.setConfiguration false 1 0 0) configured).pmaNext = 448 := by decide +kernel

/-- V73a. -/
theorem test_getConfiguration : pmaByte (after (.getConfiguration true 0 0 1) configured) 128 = 1 := by decide +kernel

/-- V74, V74c. -/
theorem test_getDescriptorDevice : ((after (.getDescriptorDevice true 0 0 64) State.reset).hw ctlIn).count = 18
    ∧ pmaByte (after (.getDescriptorDevice true 0 0 64) State.reset) 137 = 0x12
    ∧ (after (.getDescriptorDevice true 0 0 0) State.reset).ctl.ctrlState = .statusIn := by decide +kernel

/-- V74d, V74e. -/
theorem test_getDescriptorConfiguration : ((after (.getDescriptorConfiguration true 0 0 9) addressed).hw ctlIn).count = 9
    ∧ ((after (.getDescriptorConfiguration true 0 0 255) addressed).hw ctlIn).count = 32 := by decide +kernel

/-- V74g, V74i, V74j. -/
theorem test_getDescriptorString : pmaByte (after (.getDescriptorString true 1 0x0409 255) addressed) 130 = 0x4C
    ∧ ((after (.getDescriptorString true 3 0x0409 255) addressed).hw ctlIn).count = 50
    ∧ (after (.getDescriptorString true 4 0x0409 255) addressed).ctl.ctrlState = .stall := by decide +kernel

/-- V74k, V75d, V77f. -/
theorem test_rejected : (after (.getDescriptorDeviceQualifier true 0 0 10) State.reset).ctl.ctrlState = .stall
    ∧ (after (.deviceClassVendorReserved false 2 1 0 0 0) addressed).ctl.ctrlState = .stall
    ∧ (after (.endpointClassVendorReserved false 2 1 0 0x81 0) configured).ctl.ctrlState = .stall := by decide +kernel

/-- V76b, V76f. -/
theorem test_getStatusEndpoint : (after (.getStatusEndpoint true 0 0x81 2) addressed).ctl.ctrlState = .stall
    ∧ ((after (.getStatusEndpoint true 0 0xF1 2) configured).hw ctlIn).count = 2 := by decide +kernel

/-- V77, V77d. -/
theorem test_setFeatureEndpoint : ((after (.setFeatureEndpoint false 0 0x81 0) configured).hw bulkIn).stat = .stall
    ∧ ((after (.setFeatureEndpoint false 0 0 0) configured).ep ctlOut).stalled = false := by decide +kernel

/-- V77b. -/
theorem test_clearFeatureEndpoint :
    ((after (.clearFeatureEndpoint false 0 0x81 0) (after (.setFeatureEndpoint false 0 0x81 0) configured)).hw bulkIn).stat
      = .nak := by decide +kernel

/-- V80, V80b, V80c. -/
theorem test_getMaxLun : pmaByte (after (.getMaxLun 0 0 1) configured) 128 = 0
    ∧ (after (.getMaxLun 0 0 1) addressed).ctl.ctrlState = .stall
    ∧ (after (.getMaxLun 0 1 1) configured).ctl.ctrlState = .stall := by decide +kernel

/-- V81, V81b. -/
theorem test_massStorageReset :
    (after (.bulkOnlyMassStorageReset 0 0) (setBotState .stalled configured)).bot.state = .idle
    ∧ (after (.classreqOther 0x21 0x20 0 0 7) configured).ctl.ctrlState = .stall := by decide +kernel

/-- V75b: forwarded, and not handled. -/
theorem test_setupInterfaceForward : (after (.setupInterfaceForward false 0 11 0 0 0) configured).ctl.ctrlState = .stall := by
  decide +kernel

/-- E7: TEST UNIT READY with a medium; the CSW is loaded. -/
theorem test_cbw : bufRead (after (.cbw 0x11223344 0 0 6 (Vector.replicate 16 0)) configured) .csw 0 13
      = [0x55, 0x53, 0x42, 0x53, 0x44, 0x33, 0x22, 0x11, 0, 0, 0, 0, 0]
    ∧ (after (.cbw 0x11223344 0 0 6 (Vector.replicate 16 0)) configured).bot.state = .status := by decide +kernel

/-- 95 section 2.7. -/
theorem test_cbwMalformed : (after (.cbwMalformed []) configured).bot.state = .stalled
    ∧ ((after (.cbwMalformed []) configured).hw bulkOut).stat = .stall := by decide +kernel

/-- V101, V102, V104, V105. -/
theorem test_scsi_responses : bufRead (after .requestSense configured) .work 0 18 = List.replicate 18 0
    ∧ (after .inquiry configured).scsi.respLen = 36 ∧ bufRead (after .modeSense6 configured) .work 0 4 = [0, 0, 0, 0]
    ∧ bufRead (after .modeSense10 configured) .work 0 8 = [0, 6, 0, 0, 0, 0, 0, 0] := by decide +kernel

/-- V106, V107. -/
theorem test_scsi_capacities :
    bufRead (after .readCapacity10 configured) .work 0 8 = [0x00, 0x00, 0x00, 0x63, 0x00, 0x00, 0x02, 0x00]
    ∧ bufRead (after .readFormatCapacities configured) .work 0 12
        = [0x00, 0x00, 0x00, 0x08, 0x00, 0x00, 0x00, 0x64, 0x02, 0x00, 0x02, 0x00] := by decide +kernel

/-- P2: without a medium, TEST UNIT READY's sense and what REQUEST SENSE then returns. -/
theorem test_scsi_noMedium : (after .testUnitReady addressed).scsi.state = .error
    ∧ bufRead (after .requestSense (after .testUnitReady addressed)) .work 0 18
        = [0x70, 0, 0x02, 0, 0, 0, 0, 0x0A, 0, 0, 0, 0, 0x3A, 0, 0, 0, 0, 0] := by decide +kernel

/-- V108, V109, V110, V111. -/
theorem test_scsi_noData : (after .startStopUnit (finish .error configured)).scsi.state = .ok
    ∧ (after .preventAllowMediumRemoval (finish .error configured)).scsi.state = .ok
    ∧ (after (.verify10 99 1) (finish .error configured)).scsi.state = .ok
    ∧ (after (.verify10 99 2) configured).scsi.senseAsc = #v[0x21, 0, 0, 0] := by decide +kernel

/-- V112. -/
theorem test_cdbUnsupported : (after (.cdbUnsupported 0x1D) configured).scsi.senseKey = #v[5, 0, 0, 0]
    ∧ (after (.cdbUnsupported 0x1D) configured).scsi.senseAsc = #v[0x20, 0, 0, 0] := by decide +kernel

/-- V113, V114, V119a. -/
theorem test_read10_checks : (after (.read10 10 2) (commanded 0x00 1024 configured)).scsi.senseAsc = #v[0x24, 0, 0, 0]
    ∧ (after (.read10 99 2) (commanded 0x80 1024 configured)).scsi.senseAsc = #v[0x21, 0, 0, 0]
    ∧ (after (.read10 0xFFFFFFFF 2) (commanded 0x80 1024 configured)).scsi.senseAsc = #v[0x21, 0, 0, 0] := by decide +kernel

/-- V117: one block, filled with 0x63. -/
theorem test_read10_block :
    bufByte (after (.read10 99 1) { commanded 0x80 512 configured with answers := [true] }) .work 511 = 0x63
    ∧ (after (.read10 99 1) { commanded 0x80 512 configured with answers := [true] }).scsi.state = .lastDataIn := by decide +kernel

/-- V119f, and a WRITE(10) that is accepted. -/
theorem test_write10 : (after (.write10 5 1) (commanded 0x80 512 configured)).scsi.senseAsc = #v[0x24, 0, 0, 0]
    ∧ (after (.write10 5 1) (commanded 0x00 512 configured)).scsi.state = .dataOut
    ∧ (after (.write10 5 1) (commanded 0x00 512 configured)).scsi.blkAddr = 5 := by decide +kernel

/-! ## For every statement with hypotheses, a state and operands that meet them -/

/-- EXAMPLE_CFG with the bulk OUT endpoint double-buffered. -/
def twoBuffers : Config := { Config.exampleCfg with dbuf := [bulkOut] }

/-- A configuration with an OPAQUE class that has the hook. -/
def opaqueClass : State := { configured with cfg := { configured.cfg with cls := .other true } }

/-- A SETUP of `n` bytes waiting for the handler (40 R171). -/
def setupWaiting (n : Nat) : State := received ctlOut n (State.reset.modHw ctlOut (fun h => { h with setup := true }))

/-- An IN transfer of which `left` bytes are to be completed and `flying` are in flight, its packet sent. -/
def sending (a : EpAddr) (left flying : Nat) (s : State) : State :=
  received a flying (s.modEp a (fun e => { e with active := true, remaining := left, inflight := flying }))

/-- An OUT transfer of `want` bytes into `buf` from `at0` on, with a packet of `n` bytes waiting. -/
def receiving (a : EpAddr) (buf : BufRef) (at0 want n : Nat) (s : State) : State :=
  received a n (s.modEp a (fun e => { e with active := true, buf := buf, remaining := want, transferred := at0 }))

theorem test_witness_DecodeOfEncode : (Instr.hostOut 127 ⟨false, 15⟩ (List.replicate 1023 0)).wf = true
    ∧ (Instr.setupOtherRecipient true 3 3 0 0 0 0).wf = true ∧ (Instr.cbw 0 0 0 16 (Vector.replicate 16 0)).wf = true := by
  refine ⟨?_, by decide, by decide⟩
  simp only [Instr.wf, List.length_replicate]
  decide

theorem test_witness_StepRunsDecodedInstruction :
    (configWf (withWord ⟨.op, [0x24]⟩ State.reset).cfg = true
      ∧ (withWord ⟨.op, [0x24]⟩ State.reset).script = ⟨.op, [0x24]⟩ :: [] ∧ decode ⟨.op, [0x24]⟩ = .ok .hostSuspend)
    ∧ decode ⟨.op, [0x26]⟩ = .error .unknownCode ∧ decode ⟨.periph, [0x03]⟩ = .error .peripheralCall
    ∧ configWf { Config.exampleCfg with serialIndex := 0 } = false := ⟨⟨by decide +kernel, rfl, rfl⟩, rfl, rfl, by decide +kernel⟩

/-- The clauses on a malformed request and on the peripheral's calls. -/
theorem test_witness_StepRunsOtherWords :
    ControlOpen (withWord ⟨.setup, []⟩ State.reset) ∧ ([] : List Byte).length ≠ 8
    ∧ (withWord ⟨.periph, [0x02]⟩ State.reset).script = ⟨.periph, [0x02]⟩ :: [] ∧ (withWord ⟨.periph, [0x02]⟩ State.reset).fault = none := by
  refine ⟨?_, by decide, rfl, rfl⟩
  unfold ControlOpen
  decide +kernel

theorem test_witness_HandlerServicesPending : State.reset.script = []
    ∧ (after .hostBusReset State.reset).periph.pendReset = true
    ∧ EventPending .evSuspend (after .hostSuspend State.reset) ∧ EventPending (.evCtr bulkOut) (received bulkOut 0 State.reset)
    ∧ (after .hostSuspend State.reset).periph.pendReset = false
    ∧ pendingEvents State.reset = [] := by
  refine ⟨rfl, by decide +kernel, .inr (.inl ⟨rfl, by decide +kernel⟩), .inr (.inr (.inr ⟨bulkOut, rfl, ?_, ?_⟩)), ?_, ?_⟩ <;>
    decide +kernel

theorem test_witness_NothingPending : ∀ i, ¬ EventPending i State.reset := by
  rintro i (⟨-, h⟩ | ⟨-, h⟩ | ⟨-, h⟩ | ⟨a, -, -, h⟩)
  · exact absurd h (by decide)
  · exact absurd h (by decide)
  · exact absurd h (by decide)
  · have key : ∀ k : Fin 32, (State.reset.hws[k.val]).ctr = false := by decide +kernel
    exact absurd (h.symm.trans (key (epSlot a))) (by decide)

theorem test_witness_FaultedMachineHasNoStep : faulted.fault = some .badOperand := by decide +kernel

theorem test_witness_PmaAllocCompletes : State.reset.fault = none ∧ State.reset.pmaNext + 320 ≤ State.reset.cfg.pmaSize
    ∧ State.reset.cfg.pmaSize < State.reset.pmaNext + 321 := by decide +kernel

theorem test_witness_EpOpenCompletes :
    (State.reset.fault = none ∧ bulkIn.num.toNat < State.reset.cfg.nEp ∧ 1 ≤ (320 : BitVec 16).toNat ∧ (320 : BitVec 16).toNat ≤ 1023
      ∧ bulkIn ∉ State.reset.cfg.dbuf ∧ State.reset.pmaNext + (320 : BitVec 16).toNat ≤ State.reset.cfg.pmaSize)
    ∧ (bulkOut ∈ (State.powerOn twoBuffers).cfg.dbuf
      ∧ (State.powerOn twoBuffers).pmaNext + 2 * (160 : BitVec 16).toNat ≤ (State.powerOn twoBuffers).cfg.pmaSize) := by
  decide +kernel

theorem test_witness_EngineOperationsFault :
    (State.reset.fault = none ∧ State.reset.cfg.nEp ≤ (⟨true, 8⟩ : EpAddr).num.toNat ∧ 1023 < (1024 : BitVec 16).toNat
      ∧ State.reset.cfg.pmaSize < State.reset.pmaNext + (321 : BitVec 16).toNat)
    ∧ (bulkOut ∈ (State.powerOn twoBuffers).cfg.dbuf
      ∧ (State.powerOn twoBuffers).pmaNext + (161 : BitVec 16).toNat ≤ (State.powerOn twoBuffers).cfg.pmaSize
      ∧ (State.powerOn twoBuffers).cfg.pmaSize < (State.powerOn twoBuffers).pmaNext + 2 * (161 : BitVec 16).toNat)
    ∧ ((⟨true, 2⟩ : EpAddr).num.toNat < State.reset.cfg.nEp ∧ (State.reset.ep ⟨true, 2⟩).isOpen = false)
    ∧ (EpUsable ctlIn State.reset ∧ EpUsable ctlOut State.reset)
    ∧ State.reset.ctl.ctrlState ≠ .setup := by
  unfold EpUsable
  decide +kernel

theorem test_witness_EpCloseCompletes : EpUsable bulkIn configured := by
  unfold EpUsable
  decide +kernel

theorem test_witness_EpReadCompletes : EpUsable bulkOut configured ∧ bulkOut.isIn = false
    ∧ writeFits configured.cfg .work (512 : BitVec 32).toNat = true := by
  unfold EpUsable
  decide +kernel

theorem test_witness_EpWriteCompletes : EpUsable bulkIn configured ∧ bulkIn.isIn = true ∧ RegionFits bulkIn configured
    ∧ readFits configured.cfg .csw (13 : BitVec 32).toNat = true := by
  unfold EpUsable RegionFits inRegion
  decide +kernel

theorem test_witness_EpStallAndDestallComplete : EpUsable bulkOut configured ∧ EpUsable bulkOut (after (.epStall bulkOut) configured) := by
  unfold EpUsable
  decide +kernel

theorem test_witness_QueriesComplete : configured.fault = none := by decide +kernel

theorem test_witness_CtlSendCompletes : ControlReady (decoding 8 State.reset) ∧ (decoding 8 State.reset).ctl.ctrlState = .setup
    ∧ readFits (decoding 8 State.reset).cfg .deviceDesc (min (18 : BitVec 16).toNat (decoding 8 State.reset).ctl.ctrlLen) = true
    ∧ 0 < min (18 : BitVec 16).toNat (decoding 8 State.reset).ctl.ctrlLen
    ∧ min (18 : BitVec 16).toNat (decoding 0 State.reset).ctl.ctrlLen = 0 := by
  unfold ControlReady ControlOpen RegionFits inRegion
  decide +kernel

theorem test_witness_CtlReceiveCompletes : ControlReady (decoding 64 State.reset) ∧ (decoding 64 State.reset).ctl.ctrlState = .setup
    ∧ writeFits (decoding 64 State.reset).cfg .scratch (min (64 : BitVec 16).toNat (decoding 64 State.reset).ctl.ctrlLen) = true
    ∧ 0 < min (64 : BitVec 16).toNat (decoding 64 State.reset).ctl.ctrlLen
    ∧ min (0 : BitVec 16).toNat (decoding 64 State.reset).ctl.ctrlLen = 0 := by
  unfold ControlReady ControlOpen RegionFits inRegion
  decide +kernel

theorem test_witness_HostBusSignalsComplete : configured.fault = none ∧ configured.periph.started = true
    ∧ configured.ctl.devState ≠ .suspended ∧ configured.periph.pendSuspend = false
    ∧ (after .hostSuspend configured).periph.pendSuspend = true
    ∧ (after .evSuspend (after .hostSuspend configured)).ctl.devState = .suspended
    ∧ (after .evSuspend (after .hostSuspend configured)).periph.pendSuspend = false := by decide +kernel

theorem test_witness_HostSetupCompletes : State.reset.fault = none
    ∧ (State.reset.periph.started = true ∧ State.reset.ctl.devState ≠ .suspended ∧ (0 : BitVec 7) = State.reset.periph.hwAddress
      ∧ (State.reset.hw ctlOut).stat ≠ .disabled ∧ (List.replicate 64 (0 : Byte)).length ≤ State.reset.cfg.ep0Mps
      ∧ (State.reset.ep ctlOut).off0 + (List.replicate 64 (0 : Byte)).length ≤ State.reset.cfg.pmaSize)
    ∧ (State.reset.modPeriph (fun p => { p with started := false })).periph.started = false
    ∧ (1 : BitVec 7) ≠ State.reset.periph.hwAddress
    ∧ ((after .hostBusReset State.reset).hw ctlOut).stat = .disabled := by decide +kernel

theorem test_witness_HostOutCompletes : configured.fault = none ∧ configured.periph.started = true ∧ configured.ctl.devState ≠ .suspended
    ∧ (configured.modPeriph (fun p => { p with started := false })).periph.started = false
    ∧ bulkOut.isIn = false ∧ (4 : BitVec 7) ≠ configured.periph.hwAddress
    ∧ configured.cfg.nEp ≤ (⟨false, 8⟩ : EpAddr).num.toNat ∧ (configured.hw ⟨false, 2⟩).stat = .disabled
    ∧ (5 : BitVec 7) = configured.periph.hwAddress ∧ bulkOut.num.toNat < configured.cfg.nEp
    ∧ ((after (.epStall bulkOut) configured).hw bulkOut).stat = .stall
    ∧ ((received bulkOut 1 configured).hw bulkOut).stat = .nak
    ∧ (configured.hw bulkOut).stat = .valid ∧ (configured.hw bulkOut).ctr = false
    ∧ (List.replicate 64 (0 : Byte)).length ≤ (configured.ep bulkOut).mps
    ∧ (configured.ep bulkOut).off0 + (List.replicate 64 (0 : Byte)).length ≤ configured.cfg.pmaSize := by decide +kernel

theorem test_witness_HostInCompletes : bulkIn.isIn = true ∧ bulkIn.num.toNat < configured.cfg.nEp
    ∧ (5 : BitVec 7) = configured.periph.hwAddress ∧ (configured.hw bulkIn).stat = .nak
    ∧ ((after (.epStall bulkIn) configured).hw bulkIn).stat = .stall
    ∧ ((after (.epWriteZlp bulkIn) configured).hw bulkIn).stat = .valid
    ∧ ((after (.epWriteZlp bulkIn) configured).hw bulkIn).ctr = false
    ∧ ((after (.epWriteZlp bulkIn) configured).ep bulkIn).off0
        + ((after (.epWriteZlp bulkIn) configured).hw bulkIn).count ≤ configured.cfg.pmaSize := by decide +kernel

theorem test_witness_FalseGuardsHaveNoStep : State.reset.fault = none
    ∧ (State.reset.modPeriph (fun p => { p with started := false })).periph.started = false
    ∧ (after .evSuspend (after .hostSuspend State.reset)).ctl.devState = .suspended
    ∧ State.reset.periph.pendSuspend = false
    ∧ (¬ EventPending .evReset State.reset)
    ∧ (EventPending (.evCtr ctlOut) (received ctlOut 0 (after .hostBusReset State.reset))
        ∧ (received ctlOut 0 (after .hostBusReset State.reset)).periph.pendReset = true) := by
  refine ⟨by decide +kernel, by decide +kernel, by decide +kernel, by decide +kernel,
    test_witness_NothingPending _, .inr (.inr (.inr ⟨ctlOut, rfl, ?_, ?_⟩)), ?_⟩ <;>
    decide +kernel

theorem test_witness_SuspendAndResumeServiced : (after .hostSuspend configured).fault = none
    ∧ (after .hostSuspend configured).periph.pendReset = false ∧ (after .hostSuspend configured).periph.pendSuspend = true
    ∧ (after .hostResume (after .evSuspend (after .hostSuspend configured))).periph.pendResume = true := by decide +kernel

theorem test_witness_BusResetServiced : (after .hostBusReset configured).fault = none
    ∧ configWf (after .hostBusReset configured).cfg = true ∧ (after .hostBusReset configured).periph.pendReset = true
    ∧ ((after .hostBusReset configured).ctl.classActive = true ∧ (after .hostBusReset configured).cfg.cls = .msc
      ∧ EpUsable (after .hostBusReset configured).cfg.botInEp (after .hostBusReset configured)
      ∧ EpUsable (after .hostBusReset configured).cfg.botOutEp (after .hostBusReset configured)) := by
  unfold EpUsable
  decide +kernel

/-- A bus reset signalled while an OPAQUE class is active, with the run of its deinit given. -/
def opaqueReset (acts : List ClassAct) : State := { after .hostBusReset opaqueClass with classRuns := [⟨acts, true⟩] }

theorem test_witness_BusResetServiced_opaque : (opaqueReset []).fault = none ∧ configWf (opaqueReset []).cfg = true
    ∧ (opaqueReset []).periph.pendReset = true ∧ (opaqueReset []).ctl.classActive = true ∧ (opaqueReset []).cfg.cls = .other true
    ∧ (opaqueReset []).classRuns = ⟨[], true⟩ :: []
    ∧ (classActs [.call (.epClose bulkIn)] (opaqueReset [])).fault = none
    ∧ (classActs [.call (.epClose ⟨true, 2⟩)] (opaqueReset [])).fault ≠ none := by
  decide +kernel

theorem test_witness_SetupServiceRunsTheRequest : (setupWaiting 8).fault = none ∧ (setupWaiting 8).periph.pendReset = false
    ∧ 0 < (setupWaiting 8).cfg.nEp ∧ ((setupWaiting 8).hw ctlOut).ctr = true ∧ ((setupWaiting 8).hw ctlOut).setup = true
    ∧ ((setupWaiting 8).hw ctlOut).count = 8 ∧ ((setupWaiting 8).ep ctlOut).off0 + 8 ≤ (setupWaiting 8).cfg.pmaSize := by
  decide +kernel

theorem test_witness_SetupOfAnotherLengthIsRejected : ControlOpen (setupWaiting 7) ∧ (setupWaiting 7).periph.pendReset = false
    ∧ ((setupWaiting 7).hw ctlOut).ctr = true ∧ ((setupWaiting 7).hw ctlOut).setup = true
    ∧ ((setupWaiting 7).hw ctlOut).count ≠ 8 := by
  unfold ControlOpen
  decide +kernel

theorem test_witness_InCompletionLoadsNextPacket : PacketPending bulkIn (sending bulkIn 65 64 configured) ∧ bulkIn.isIn = true
    ∧ ((sending bulkIn 65 64 configured).ep bulkIn).active = true
    ∧ ((sending bulkIn 65 64 configured).ep bulkIn).inflight < ((sending bulkIn 65 64 configured).ep bulkIn).remaining
    ∧ RegionFits bulkIn (sending bulkIn 65 64 configured)
    ∧ PacketPending bulkIn (received bulkIn 0 configured) ∧ ((received bulkIn 0 configured).ep bulkIn).active = false := by
  unfold PacketPending RegionFits inRegion
  decide +kernel

theorem test_witness_OutCompletionStoresPacket : PacketPending bulkOut (receiving bulkOut .work 0 65 64 configured)
    ∧ ((receiving bulkOut .work 0 65 64 configured).hw bulkOut).count < ((receiving bulkOut .work 0 65 64 configured).ep bulkOut).remaining
    ∧ ((receiving bulkOut .work 0 65 64 configured).ep bulkOut).mps ≤ ((receiving bulkOut .work 0 65 64 configured).hw bulkOut).count
    ∧ outRegion bulkOut (receiving bulkOut .work 0 65 64 configured) + 64 ≤ configured.cfg.pmaSize
    ∧ writeFits configured.cfg .work (0 + 64) = true
    ∧ PacketPending ctlOut (received ctlOut 3 State.reset) ∧ ((received ctlOut 3 State.reset).ep ctlOut).active = false := by
  unfold PacketPending outRegion
  decide +kernel

theorem test_witness_ControlInCompletionAdvances :
    ControlReady (sending ctlIn 18 18 State.reset) ∧ LastInPending ctlIn (sending ctlIn 18 18 State.reset)
    ∧ ((sending ctlIn 18 18 State.reset).ep ctlIn).callback = some .ctrlIn := by
  unfold ControlReady ControlOpen RegionFits inRegion LastInPending PacketPending
  decide +kernel

theorem test_witness_ControlOutCompletionAdvances :
    LastOutPending ctlOut (receiving ctlOut .none 0 0 0 (State.reset.modCtl (fun c => { c with ctrlState := .statusOut })))
    ∧ ((receiving ctlOut .none 0 0 0 State.reset).ep ctlOut).callback = some .ctrlOut := by
  unfold LastOutPending PacketPending outRegion outTaken
  decide +kernel

/-- The last packet of an OUT data stage of seven bytes, under a class with or without the hook. -/
def dataStage (c : ClassKind) : State :=
  { receiving ctlOut .scratch 0 7 7 (configured.modCtl (fun c => { c with ctrlState := .dataOut })) with
    cfg := { configured.cfg with cls := c }, classRuns := [⟨[], true⟩] }

theorem test_witness_ControlOutCompletionAdvances_data : LastOutPending ctlOut (dataStage .msc) ∧ ControlReady (dataStage .msc)
    ∧ ((dataStage .msc).ep ctlOut).callback = some .ctrlOut ∧ (dataStage .msc).ctl.ctrlState = .dataOut
    ∧ (dataStage .msc).cfg.cls = .msc ∧ LastOutPending ctlOut (dataStage (.other true))
    ∧ (dataStage (.other true)).cfg.cls = .other true ∧ (dataStage (.other true)).classRuns = ⟨[], true⟩ :: []
    ∧ (classActs [.call (.ctlSend .none 1)] (dataStage (.other true))).fault ≠ none := by
  unfold LastOutPending PacketPending outRegion outTaken ControlReady ControlOpen RegionFits inRegion
  decide +kernel

theorem test_witness_PowerOnCompletes : configured.fault = none ∧ configWf configured.cfg = true := by decide +kernel

theorem test_witness_RejectedRequestsStall : ControlOpen State.reset ∧ alwaysRejected (.setDescriptor false 256 0 18) = true := by
  unfold ControlOpen
  decide +kernel

/-- ControlReady of the states the request statements start from, and a well-formed configuration. -/
theorem test_witness_ControlReady : ControlReady State.reset ∧ ControlReady addressed ∧ ControlReady configured
    ∧ configWf configured.cfg = true := by
  unfold ControlReady ControlOpen RegionFits inRegion
  decide +kernel

theorem test_witness_DeviceFeaturesComplete : ControlReady State.reset := test_witness_ControlReady.1

theorem test_witness_SetAddressCompletes : ControlReady State.reset ∧ (127 : BitVec 16).toNat < 128 ∧ 128 ≤ (128 : BitVec 16).toNat
    ∧ State.reset.ctl.devState = .default ∧ configured.ctl.devState = .configured
    ∧ (after .evSuspend (after .hostSuspend configured)).ctl.devState ≠ .configured :=
  ⟨test_witness_ControlReady.1, by decide, by decide, by decide, by decide, by decide +kernel⟩

theorem test_witness_DeviceReportsComplete : ControlReady configured ∧ configWf configured.cfg = true :=
  test_witness_ControlReady.2.2

theorem test_witness_GetDescriptorCompletes : ControlReady configured ∧ configWf configured.cfg = true :=
  test_witness_ControlReady.2.2

theorem test_witness_GetDescriptorStringCompletes : ControlReady configured ∧ configWf configured.cfg = true
    ∧ (3 : Byte) = configured.cfg.serialIndex ∧ configured.cfg.strings.lookup 2 = some [0x4D, 0x53, 0x43]
    ∧ configured.cfg.strings.lookup 4 = none :=
  ⟨test_witness_ControlReady.2.2.1, test_witness_ControlReady.2.2.2, by decide +kernel⟩

theorem test_witness_SetConfigurationZeroCompletes : ControlReady State.reset ∧ State.reset.ctl.devState = .default
    ∧ configured.cfg.maxConfiguration < (2 : BitVec 16).toNat
    ∧ (ControlReady addressed ∧ addressed.ctl.devState ≠ .default ∧ addressed.ctl.classActive = false)
    ∧ (ControlReady configured ∧ configured.ctl.devState ≠ .default ∧ configured.ctl.classActive = true ∧ configured.cfg.cls = .msc
      ∧ EpUsable configured.cfg.botInEp configured ∧ EpUsable configured.cfg.botOutEp configured) := by
  refine ⟨test_witness_ControlReady.1, by decide, by decide, ⟨test_witness_ControlReady.2.1, by decide, by decide⟩,
    test_witness_ControlReady.2.2.1, by decide, by decide, by decide, ?_⟩
  unfold EpUsable
  decide +kernel

theorem test_witness_SetConfigurationEntersClass : ControlReady configured ∧ configured.cfg.cls = .msc
    ∧ configured.ctl.devState ≠ .default ∧ (1 : BitVec 16) ≠ 0 ∧ (1 : BitVec 16).toNat ≤ configured.cfg.maxConfiguration
    ∧ (configured.ctl.classActive = true → EpUsable configured.cfg.botInEp configured ∧ EpUsable configured.cfg.botOutEp configured)
    ∧ configured.pmaNext + openSize configured.cfg configured.cfg.botInEp configured.cfg.botMps
        + openSize configured.cfg configured.cfg.botOutEp configured.cfg.botMps ≤ configured.cfg.pmaSize
    ∧ configured.pmaNext + openSize twoBuffers bulkIn 64 + openSize twoBuffers bulkOut 64 = twoBuffers.pmaSize := by
  refine ⟨test_witness_ControlReady.2.2.1, by decide, by decide, by decide, by decide, fun _ => ?_, by decide +kernel, by decide +kernel⟩
  unfold EpUsable
  decide +kernel

theorem test_witness_EndpointRequestsComplete :
    ¬ EndpointLegal (decodeEp ((0x81 : BitVec 16).extractLsb' 0 8)) addressed
    ∧ EndpointLegal (decodeEp ((0x80 : BitVec 16).extractLsb' 0 8)) addressed
    ∧ EndpointLegal (decodeEp ((0x00F1 : BitVec 16).extractLsb' 0 8)) configured
    ∧ (decodeEp ((0x00F1 : BitVec 16).extractLsb' 0 8)).num ≠ 0 := by
  unfold EndpointLegal
  decide +kernel

theorem test_witness_UnhandledClassRequestsAreRejected : ControlOpen configured ∧ forwardsRequest (.classreqOther 0x21 0xFF 0 0 1) = true
    ∧ ¬ ForwardsToClass (.getMaxLun 0 1 1) configured ∧ ForwardsToClass (.classreqOther 0x21 0xFF 0 0 1) configured
    ∧ configured.cfg.cls = .msc ∧ Instr.isMscRequest 0x21 0xFF 1 = false ∧ Instr.isMscRequest 0x01 11 0 = false := by
  unfold ControlOpen ForwardsToClass
  decide +kernel

theorem test_witness_GetMaxLunCompletes : ControlReady configured ∧ configured.cfg.cls = .msc
    ∧ ForwardsToClass (.getMaxLun 0 0 1) configured := by
  refine ⟨test_witness_ControlReady.2.2.1, by decide, ?_⟩
  unfold ForwardsToClass
  decide +kernel

theorem test_witness_MassStorageResetCompletes : ControlReady configured ∧ configWf configured.cfg = true ∧ configured.cfg.cls = .msc
    ∧ ForwardsToClass (.bulkOnlyMassStorageReset 0 0) configured ∧ EpUsable configured.cfg.botOutEp configured := by
  refine ⟨test_witness_ControlReady.2.2.1, test_witness_ControlReady.2.2.2, by decide, ?_⟩
  unfold ForwardsToClass EpUsable
  decide +kernel

theorem test_witness_OpaqueClassAnswersRequests : opaqueClass.fault = none ∧ opaqueClass.cfg.cls = .other true
    ∧ forwardsRequest (.setupInterfaceForward false 2 1 0 0 0) = true
    ∧ ForwardsToClass (.setupInterfaceForward false 2 1 0 0 0) opaqueClass
    ∧ ControlReady { opaqueClass with ctl := recorded (.setupInterfaceForward false 2 1 0 0 0) opaqueClass.ctl }
    ∧ (recorded (.setupInterfaceForward false 2 1 0 0 0) opaqueClass.ctl).ctrlLen = 0
    ∧ (classActs [.call (.ctlSend .maxLun 4294967295#16)] opaqueClass).fault ≠ none
    ∧ (classActs [.call (.epClose ctlIn)] opaqueClass).fault = none ∧ 0 < (classActs [.call (.epClose ctlIn)] opaqueClass).cfg.nEp
    ∧ ((classActs [.call (.epClose ctlIn)] opaqueClass).ep ctlIn).isOpen = false := by
  unfold ForwardsToClass ControlReady ControlOpen RegionFits inRegion
  decide +kernel

theorem test_witness_ScsiResponsesComplete : configured.fault = none ∧ configured.scsi.medium = true
    ∧ configured.scsi.senseHead = configured.scsi.senseTail
    ∧ (after (.cdbUnsupported 0) configured).scsi.senseHead ≠ (after (.cdbUnsupported 0) configured).scsi.senseTail
    ∧ addressed.scsi.medium = false ∧ PushAllowed addressed := by
  unfold PushAllowed
  decide +kernel

theorem test_witness_ScsiNoDataCommandsComplete : configured.fault = none ∧ configured.scsi.medium = true
    ∧ (99 : BitVec 32).toNat + (1 : BitVec 16).toNat ≤ configured.scsi.totalBlocks
    ∧ configured.scsi.totalBlocks < (99 : BitVec 32).toNat + (2 : BitVec 16).toNat ∧ PushAllowed configured := by
  unfold PushAllowed
  decide +kernel

/-- A sense ring one entry short of full, under SENSE_OVERFLOW = FAULT. -/
def ringFull : State :=
  { State.reset with cfg := { State.reset.cfg with senseOverflow := .fault }, scsi := { State.reset.scsi with senseHead := 3 } }

theorem test_witness_UnsupportedOpcodeFails : State.reset.fault = none ∧ PushAllowed State.reset ∧ ¬ PushAllowed ringFull := by
  unfold PushAllowed
  decide +kernel

theorem test_witness_Read10Completes : (commanded 0x80 1024 configured).fault = none ∧ PushAllowed configured
    ∧ (commanded 0x00 1024 configured).bot.flags.getLsbD 7 = false ∧ (commanded 0x80 1024 configured).bot.flags.getLsbD 7 = true
    ∧ addressed.scsi.medium = false ∧ configured.scsi.medium = true
    ∧ configured.scsi.totalBlocks < (99 : BitVec 32).toNat + (2 : BitVec 16).toNat
    ∧ (98 : BitVec 32).toNat + (2 : BitVec 16).toNat ≤ configured.scsi.totalBlocks
    ∧ (commanded 0x80 512 configured).bot.dataLength ≠ (2 : BitVec 16).toNat * 512
    ∧ (commanded 0x80 1024 configured).bot.dataLength = (2 : BitVec 16).toNat * 512 ∧ (2 : BitVec 16) ≠ 0
    ∧ ({ configured with answers := [true] }).answers = true :: [] := by
  unfold PushAllowed
  decide +kernel

theorem test_witness_Write10Completes : (commanded 0x00 1024 configured).fault = none ∧ PushAllowed configured
    ∧ (commanded 0x00 1024 configured).bot.flags.getLsbD 7 = false ∧ configured.scsi.medium = true
    ∧ (98 : BitVec 32).toNat + (2 : BitVec 16).toNat ≤ configured.scsi.totalBlocks
    ∧ (commanded 0x00 1024 configured).bot.dataLength = (2 : BitVec 16).toNat * 512
    ∧ configured.scsi.writeCapable = true ∧ addressed.scsi.writeCapable = false := by
  unfold PushAllowed
  decide +kernel

/-- The bulk pair of a configured device. -/
theorem test_witness_BulkReady : BulkReady configured := by
  unfold BulkReady EpUsable RegionFits inRegion
  decide +kernel

theorem test_witness_MalformedCbwStalls : EpUsable configured.cfg.botInEp configured ∧ EpUsable configured.cfg.botOutEp configured
    ∧ configured.cfg.botInEp ≠ configured.cfg.botOutEp :=
  ⟨test_witness_BulkReady.1, test_witness_BulkReady.2.1, by decide⟩

/-- A CBW of each result: TEST UNIT READY, an unsupported command, INQUIRY, READ(10) of two blocks and of one, WRITE(10). -/
theorem test_witness_CbwRunsItsCommand : BulkReady configured
    ∧ (processCommand .testUnitReady configured).scsi.state = .ok
    ∧ (processCommand (.cdbUnsupported 0x1D) configured).scsi.state = .error
    ∧ (processCommand .inquiry configured).scsi.state = .sendData
    ∧ (processCommand (.read10 10 2) { commanded 0x80 1024 configured with answers := [true] }).scsi.state = .dataIn
    ∧ (processCommand (.read10 10 1) { commanded 0x80 512 configured with answers := [true] }).scsi.state = .lastDataIn
    ∧ (processCommand (.write10 5 1) (commanded 0x00 512 configured)).scsi.state = .dataOut
    ∧ (processCommand (.cdbUnsupported 0x1D) ringFull).fault ≠ none :=
  ⟨test_witness_BulkReady, by decide +kernel⟩

/-- A CBW of 31 bytes received on the read that class init posts. -/
theorem test_witness_CbwTransferRunsTheCbw : configWf (received bulkOut 31 configured).cfg = true
    ∧ LastOutPending (received bulkOut 31 configured).cfg.botOutEp (received bulkOut 31 configured)
    ∧ (received bulkOut 31 configured).bot.state = .idle
    ∧ ((received bulkOut 31 configured).ep (received bulkOut 31 configured).cfg.botOutEp).buf = .cbw
    ∧ ((received bulkOut 31 configured).ep (received bulkOut 31 configured).cfg.botOutEp).callback = some .botOut := by
  unfold LastOutPending PacketPending outRegion outTaken
  decide +kernel

/-- The last packet of a bulk IN transfer sent and not serviced, in a state of the sequencer and of the command. -/
def bulkInSent (b : BotState) (zlp : Bool) (r : ScsiState) (left : Nat) (answers : List Bool) : State :=
  { ((setBotState b (sending bulkIn 13 13 configured)).modBot (fun t => { t with zlp := zlp })).modScsi
      (fun c => { c with state := r, blkAddr := 99, blkLen := left }) with answers := answers }

theorem test_witness_BotInCompletionAdvances : (∀ b, ∀ z,
      configWf (bulkInSent b z .dataIn 1 [true]).cfg = true ∧ LastInPending bulkIn (bulkInSent b z .dataIn 1 [true])
      ∧ (bulkInSent b z .dataIn 1 [true]).cfg.botInEp = bulkIn
      ∧ ((bulkInSent b z .dataIn 1 [true]).ep bulkIn).callback = some .botIn
      ∧ (bulkInSent b z .dataIn 1 [true]).bot.state = b ∧ (bulkInSent b z .dataIn 1 [true]).bot.zlp = z
      ∧ EpUsable bulkIn (bulkInSent b z .dataIn 1 [true]) ∧ EpUsable bulkOut (bulkInSent b z .dataIn 1 [true])
      ∧ RegionFits bulkIn (bulkInSent b z .dataIn 1 [true]))
    ∧ ((bulkInSent .dataIn false .dataIn 1 [false]).scsi.state = .dataIn
      ∧ (bulkInSent .dataIn false .dataIn 1 [false]).scsi.blkAddr < (bulkInSent .dataIn false .dataIn 1 [false]).scsi.totalBlocks
      ∧ PushAllowed (bulkInSent .dataIn false .dataIn 1 [false])
      ∧ (bulkInSent .dataIn false .dataIn 1 [true]).answers = true :: []
      ∧ (bulkInSent .dataIn false .dataIn 1 [false]).answers = false :: []
      ∧ (bulkInSent .dataIn false .dataIn 1 [false]).scsi.blkLen - 1 = 0
      ∧ (bulkInSent .dataIn false .dataIn 2 [true]).scsi.blkLen - 1 ≠ 0) := by
  unfold LastInPending PacketPending EpUsable RegionFits inRegion PushAllowed
  refine ⟨fun b z => ?_, by decide +kernel⟩
  cases b <;> cases z <;> decide +kernel

/-- The last packet of a WRITE(10) block of `n` blocks, received and not serviced. -/
def lastPacket (n : Nat) : State :=
  { (setBotState .dataOut (receiving bulkOut .work 448 64 64 configured)).modScsi
      (fun c => { c with state := .dataOut, blkAddr := 99, blkLen := n }) with answers := [true] }

theorem test_witness_WriteBlockServiced : configWf (lastPacket 1).cfg = true ∧ BulkReady (lastPacket 1)
    ∧ LastOutPending (lastPacket 1).cfg.botOutEp (lastPacket 1) ∧ (lastPacket 1).bot.state = .dataOut
    ∧ (lastPacket 1).scsi.state = .dataOut ∧ (lastPacket 1).scsi.blkAddr < (lastPacket 1).scsi.totalBlocks
    ∧ (lastPacket 1).answers = true :: [] ∧ ((lastPacket 1).ep (lastPacket 1).cfg.botOutEp).buf = .work
    ∧ ((lastPacket 1).ep (lastPacket 1).cfg.botOutEp).callback = some .botOut
    ∧ (lastPacket 1).scsi.blkLen - 1 = 0 ∧ (lastPacket 2).scsi.blkLen - 1 ≠ 0
    ∧ PushAllowed (lastPacket 1) ∧ ({ lastPacket 1 with answers := [false] }).answers = false :: [] := by
  unfold BulkReady EpUsable RegionFits inRegion LastOutPending PacketPending outRegion outTaken PushAllowed
  decide +kernel

theorem test_witness_InvariantsHoldAtPowerOn : configWf twoBuffers = true := by decide +kernel

/-- A state that meets every invariant, with an instruction scheduled that its step runs to a next state. -/
def scheduled : State := State.reset.withFetchWord 8 0x24

theorem test_witness_StepKeepsMemoryAndBounds : MemoryCanonical scheduled ∧ BoundsKept scheduled ∧ ConfiguredHasClass scheduled
    ∧ ClassActiveSound scheduled ∧ (∃ t, step scheduled = .next t) ∧ (∃ t, exec .evReset (after .hostBusReset configured) = .next t)
    ∧ ∃ t, exec .rstPowerOn configured = .next t := by
  refine ⟨?_, ?_, by unfold ConfiguredHasClass; decide +kernel, by unfold ClassActiveSound; decide +kernel, ⟨_, rfl⟩, ⟨_, rfl⟩, _, rfl⟩
  · unfold MemoryCanonical
    decide +kernel
  · unfold BoundsKept
    decide +kernel

/-- The exception is reached: the state and the instruction of test_setAddress_suspended (assumption log 29). -/
theorem test_mayReaddressSuspended : MayReaddressSuspended (.evCtr ctlOut) suspendedWithSetup :=
  ⟨by decide +kernel, by decide +kernel, .inr ⟨rfl, by decide +kernel⟩⟩

theorem test_witness_StepKeepsTransfersSound : TransfersSound (scheduled.modEp ctlOut (fun e => { e with active := true })) := by
  have key : ∀ (d : Bool) (n : BitVec 4), ((scheduled.modEp ctlOut (fun e => { e with active := true })).ep ⟨d, n⟩).active = true →
      ((scheduled.modEp ctlOut (fun e => { e with active := true })).ep ⟨d, n⟩).isOpen = true ∧ d = false := by decide +kernel
  rintro - ⟨d, n⟩ h
  exact ⟨(key d n h).1, fun hd => absurd ((key d n h).2 ▸ hd) (by simp)⟩

theorem test_witness_StepKeepsRegionsDisjoint : RegionsSound scheduled ∧ BoundsKept scheduled := by
  refine ⟨?_, test_witness_StepKeepsMemoryAndBounds.2.1⟩
  have key : ∀ (d : Bool) (n : BitVec 4), (scheduled.ep ⟨d, n⟩).isOpen = true → ∀ r ∈ regionsOf (scheduled.ep ⟨d, n⟩),
      scheduled.cfg.pmaBase ≤ r.1 ∧ r.1 + r.2 ≤ scheduled.pmaNext
        ∧ ∀ (d' : Bool) (n' : BitVec 4), (⟨d', n'⟩ : EpAddr) ≠ ⟨d, n⟩ → (scheduled.ep ⟨d', n'⟩).isOpen = true →
            ∀ q ∈ regionsOf (scheduled.ep ⟨d', n'⟩), r.1 + r.2 ≤ q.1 ∨ q.1 + q.2 ≤ r.1 := by decide +kernel
  rintro - ⟨d, n⟩ h r hr
  obtain ⟨h1, h2, h3⟩ := key d n h r hr
  exact ⟨h1, h2, fun ⟨d', n'⟩ => h3 d' n'⟩

theorem test_witness_ConfigurationFixedAllocatorGrows : ∃ t, exec (.pmaAlloc 64) State.reset = .next t := ⟨_, rfl⟩

theorem test_witness_DeviceStateMovesOnlyByItsTransitions :
    ∃ t, exec (.setAddress false 5 0 0) State.reset = .next t ∧ t.ctl.devState ≠ State.reset.ctl.devState :=
  ⟨after (.setAddress false 5 0 0) State.reset, rfl, by decide +kernel⟩

end Sys2Proof.Tests
end

section
/-!
PROOFS of the scope family (00_scope R6, R11; 10_state R27): the configuration and the allocator over every instruction, what a step does
with the next word of the schedule, and the steps that do not exist because their guard is false.
-/

namespace Sys2Proof.Proofs

open Sys2Proof.Machine

/-! ## The configuration and the allocator (00_scope R6, 10_state R27) -/

/-- The configuration is kept, and where `grows` holds the allocator does not go back. The premise `grows` is what lets one relation
speak of the resets too: they rewind the allocator and are asked about with `grows` false. -/
def CfgKept (grows : Prop) (s t : State) : Prop := t.cfg = s.cfg ∧ (grows → s.pmaNext ≤ t.pmaNext)

theorem CfgKept.of_eq {grows : Prop} {s t : State} (hc : t.cfg = s.cfg) (hp : t.pmaNext = s.pmaNext) : CfgKept grows s t :=
  ⟨hc, fun _ => hp.ge⟩

theorem CfgKept.trans {grows : Prop} {s t u : State} (h₁ : CfgKept grows s t) (h₂ : CfgKept grows t u) : CfgKept grows s u :=
  ⟨h₂.1.trans h₁.1, fun g => (h₁.2 g).trans (h₂.2 g)⟩

theorem pmaWrite_cfgKept (grows : Prop) (off : Nat) (bs : List Byte) (s : State) : CfgKept grows s (pmaWrite off bs s) := by
  rcases pmaWrite_cases off bs s with e | e <;> rw [e] <;> exact .of_eq (by simp) (by simp)

theorem bufWrite_cfgKept (grows : Prop) (b : BufRef) (off : Nat) (bs : List Byte) (s : State) :
    CfgKept grows s (bufWrite b off bs s) := by
  rcases bufWrite_only b off bs s with e | e | e | e | ⟨_, e⟩ | e | e <;> rw [e] <;> exact .of_eq (by simp) (by simp)

theorem pmaAlloc_cfgKept (grows : Prop) (n : Nat) (s : State) : CfgKept grows s (pmaAlloc n s) := by
  rcases pmaAlloc_cases n s with ⟨-, e⟩ | ⟨-, e⟩ <;> rw [e]
  · exact .of_eq (by simp) (by simp)
  · exact ⟨rfl, fun _ => Nat.le_add_right ..⟩

/-- EP_OPEN only takes from the allocator, also where it faults on its second region (40 R152). -/
theorem epOpen_cfgKept (grows : Prop) (ep : EpAddr) (ty : EpType) (mps : Nat) (cb : CallbackId) (s : State) :
    CfgKept grows s (epOpen ep ty mps cb s) := by
  rcases epOpen_cases ep ty mps cb s with e | ⟨-, e, hle, -⟩ | ⟨hf, hn, h₁, h₂, hp⟩
  · rw [e]; exact .of_eq (by simp) (by simp)
  · exact ⟨by rw [e], fun _ => hle⟩
  · obtain ⟨-, -, -, htaken, e, -⟩ := epOpen_spec (ty := ty) (cb := cb) hf hn h₁ h₂ hp
    exact ⟨by rw [e], fun _ => htaken ▸ Nat.le_add_right ..⟩

theorem loadIn_cfgKept (grows : Prop) (ep : EpAddr) (s : State) : CfgKept grows s (loadIn ep s) := by
  rcases loadIn_cases ep s with e | ⟨-, e⟩ | ⟨-, e⟩ <;> rw [e] <;> exact .of_eq (by simp) (by simp)

theorem useAnswer_cfgKept (grows : Prop) (s : State) : CfgKept grows s (useAnswer s) := by
  unfold useAnswer
  split <;> exact .of_eq rfl rfl

theorem useClassRun_cfgKept (grows : Prop) (c : ClassCall) (s : State) :
    CfgKept grows s { useClassRun s with calls := c :: s.calls } := by
  unfold useClassRun
  split <;> exact .of_eq rfl rfl

/-- Every write an instruction is made of keeps the configuration and never rewinds the allocator. -/
theorem cfgKept_closed (grows : Prop) : Closed (CfgKept grows) where
  refl _ := .of_eq rfl rfl
  trans := CfgKept.trans
  raise _ _ := .of_eq (by simp) (by simp)
  hw _ _ _ := .of_eq rfl rfl
  hws _ _ := .of_eq rfl rfl
  periph _ _ := .of_eq rfl rfl
  answer _ _ := .of_eq rfl rfl
  returning _ _ := .of_eq rfl rfl
  useAnswer := useAnswer_cfgKept grows
  useDraw _ := .of_eq rfl rfl
  enterClassRun s c := useClassRun_cfgKept grows c s
  ctl _ _ _ := .of_eq rfl rfl
  scsi _ _ _ := .of_eq rfl rfl
  bot _ _ _ := .of_eq rfl rfl
  pmaWrite s off bs := pmaWrite_cfgKept grows off bs s
  bufWrite s b off bs := bufWrite_cfgKept grows b off bs s
  storeBlock _ _ _ := .of_eq rfl rfl
  store _ _ _ := .of_eq rfl rfl
  alloc s n := pmaAlloc_cfgKept grows n s
  epOpen s ep ty mps cb := epOpen_cfgKept grows ep ty mps cb s
  close _ _ := .of_eq rfl rfl
  stall _ _ := .of_eq rfl rfl
  destall _ _ := .of_eq rfl rfl
  endTransfer _ _ := .of_eq rfl rfl
  post _ _ _ _ _ _ := .of_eq rfl rfl
  postLoad _ ep _ _ _ _ := .trans (.of_eq rfl rfl) (loadIn_cfgKept grows ep _)
  countOut _ _ _ _ _ := .of_eq rfl rfl
  countLoad _ ep _ _ _ := .trans (.of_eq rfl rfl) (loadIn_cfgKept grows ep _)
  countEnd _ _ _ _ := .of_eq rfl rfl

theorem cfgKept_deviceMoves (grows : Prop) : DeviceMoves (CfgKept grows) := fun _ _ _ => .of_eq rfl rfl

/-- The reset's writes keep the configuration; they do rewind the allocator, so `grows` has to be refuted. -/
theorem resetFields_cfgKept {grows : Prop} (hg : ¬ grows) (s : State) : CfgKept grows s (resetFields s) :=
  ⟨rfl, fun g => absurd g hg⟩

/-- Every instruction keeps the configuration, and every one but the two resets lets the allocator only grow. -/
theorem exec_cfgKept {i : Instr} {s t : State} (he : exec i s = .next t) :
    CfgKept (i ≠ .evReset ∧ i ≠ .rstPowerOn) s t := by
  have h := cfgKept_closed (i ≠ .evReset ∧ i ≠ .rstPowerOn)
  have hm := cfgKept_deviceMoves (i ≠ .evReset ∧ i ≠ .rstPowerOn)
  refine h.exec he (fun _ => h.requestMoves hm) (fun _ => .of_eq rfl rfl) (fun _ => h.resumeService hm s) (fun hi => ?_) (fun hi => ?_)
  · exact h.busReset hm (resetFields_cfgKept (fun g => g.1 hi)) s
  · exact h.powerOn (resetFields_cfgKept (fun g => g.2 hi)) ⟨rfl, fun g => absurd hi g.2⟩

/-- Settles O59: `CfgKept` is a relation every write stays within, so exec does (`Closed.exec`); the resets stay within it with `grows`
refuted. -/
theorem configurationFixedAllocatorGrows : Obligations.ConfigurationFixedAllocatorGrows := by
  intro i s t he
  obtain ⟨hc, hp⟩ := exec_cfgKept he
  exact ⟨hc, fun hr hp' => hp ⟨hr, hp'⟩⟩

/-! ## The next word of the schedule (00_scope R11, 30_encoding R130) -/

/-- Under a well-formed configuration a step is the run of the next scheduled word. -/
theorem step_scheduled {s : State} {w : OpWord} {rest : List OpWord} (hc : configWf s.cfg = true) (hs : s.script = w :: rest) :
    step s = runWord w { s with script := rest } := by
  simp [step, nextWord, hs, underWfConfig, hc]

theorem step_configRefused {s : State} (hc : configWf s.cfg = false) : step s = .refused .configRefused := by
  unfold step
  split <;> simp [underWfConfig, hc]

theorem runWord_ok {w : OpWord} {i : Instr} (hd : decode w = .ok i) (s : State) : runWord w s = exec i s := by
  simp [runWord, hd]

theorem runWord_error {w : OpWord} {e : DecodeError} (hd : decode w = .error e) (s : State) : runWord w s = runOther w e s := by
  simp [runWord, hd]

/-- A control request that has not eight bytes does not decode (30_encoding R116). -/
theorem decode_request_badLength {w : OpWord} (hw : w.fmt = .setup ∨ w.fmt = .classReq) (hl : w.bytes.length ≠ 8) :
    decode w = .error .badLength := by
  rcases hw with hw | hw <;> simp [decode, hw, eightBytes, hl]

/-- What does not decode of a control request is rejected, whatever the error (41 R203). -/
theorem runOther_request {w : OpWord} (hw : w.fmt = .setup ∨ w.fmt = .classReq) (e : DecodeError) (s : State) :
    runOther w e s = agentStep s reject := by
  rcases hw with hw | hw <;> simp [runOther, hw]

theorem step_rejects_request {s : State} {w : OpWord} {rest : List OpWord} (hc : configWf s.cfg = true) (hs : s.script = w :: rest)
    (hw : w.fmt = .setup ∨ w.fmt = .classReq) (hl : w.bytes.length ≠ 8) (ho : ControlOpen s) :
    ∃ t, step s = .next t ∧ Rejected s.ctl { s with script := rest } t := by
  refine ⟨reject { s with script := rest }, ?_, reject_spec s.ctl (s := { s with script := rest }) ho⟩
  rw [step_scheduled hc hs, runWord_error (decode_request_badLength hw hl), runOther_request hw]
  exact agentStep_running (s := { s with script := rest }) ho.1 reject

/-- A word of the peripheral interface that names one of its calls makes that call (40 R177). -/
theorem step_peripheralCall {s : State} {bytes : List Byte} {rest : List OpWord} {f : State → State} (hc : configWf s.cfg = true)
    (hf : s.fault = none) (hs : s.script = ⟨.periph, bytes⟩ :: rest) (hp : peripheralCall bytes = some f) :
    step s = .next (f { s with script := rest }) := by
  rw [step_scheduled hc hs, runWord_error (e := .peripheralCall) rfl]
  simp only [runOther, hp]
  exact agentStep_running (s := { s with script := rest }) hf f

theorem peripheralCall_none {bytes : List Byte} (h : bytes ∉ [[0x00], [0x01], [0x02]]) : peripheralCall bytes = none := by
  unfold peripheralCall
  split <;> simp_all

/-- A word of no format the block handles is refused by its decode error (30_encoding R100). -/
theorem runOther_refused {w : OpWord} (hw : w.fmt = .op ∨ w.fmt = .cdb ∨ (w.fmt = .periph ∧ w.bytes ∉ [[0x00], [0x01], [0x02]]))
    (e : DecodeError) (s : State) : runOther w e s = .refused (.undecodable e) := by
  rcases hw with hw | hw | ⟨hw, hb⟩
  · simp [runOther, hw]
  · simp [runOther, hw]
  · simp [runOther, hw, peripheralCall_none hb]

/-- What a call of init leaves (40 R177): every endpoint status disabled and zero, the peripheral's globals cleared, nothing else. -/
theorem peripheralInit_leaves (s : State) :
    (∀ a, (peripheralInit s).hw a = ⟨.disabled, false, 0, false, false, false⟩)
      ∧ peripheralInit s = { s with hws := (peripheralInit s).hws, periph := ⟨s.periph.started, 0, false, false, false⟩ } :=
  ⟨fun a => hw_modHws _ _ a, rfl⟩

/-- Settles O4, clause by clause: the step is the run of the next word, and the word's format and decoding say which run that is. -/
theorem stepRunsDecodedInstruction : Obligations.StepRunsDecodedInstruction := by
  refine ⟨?_, ?_, ?_, ?_, fun s hc => step_configRefused hc⟩
  · intro s w rest i hc hs hd
    rw [step_scheduled hc hs, runWord_ok hd]
  · intro s w rest hc hs hw hl ho
    exact step_rejects_request hc hs hw hl ho
  · intro s rest hc hf
    refine ⟨fun hs => ?_, fun hs => step_peripheralCall hc hf hs rfl, fun hs => step_peripheralCall hc hf hs rfl⟩
    exact ⟨_, step_peripheralCall hc hf hs rfl, peripheralInit_leaves { s with script := rest }⟩
  · intro s w rest e hc hs hd hw
    rw [step_scheduled hc hs, runWord_error hd, runOther_refused hw]

/-! ## Guards that are false (00_scope R11; 40 R170-R175; 60 R335, R336) -/

/-- A guarded step whose guard is false is a fault that names it. -/
theorem guardedStep_noStep {s : State} {g : State → Option NoStep} {w : NoStep} (hf : s.fault = none) (hg : g s = some w)
    (f : State → State) : guardedStep s g f = .fault (.noStep w) := by
  simp [guardedStep, hf, hg]

@[simp] theorem eventPending_evReset (s : State) : EventPending .evReset s ↔ s.periph.pendReset = true := by simp [EventPending]

@[simp] theorem eventPending_evSuspend (s : State) : EventPending .evSuspend s ↔ s.periph.pendSuspend = true := by
  simp [EventPending]

@[simp] theorem eventPending_evResume (s : State) : EventPending .evResume s ↔ s.periph.pendResume = true := by simp [EventPending]

@[simp] theorem eventPending_evCtr (a : EpAddr) (s : State) : EventPending (.evCtr a) s ↔ ctrPending s a = true := by
  simp [EventPending, ctrPending, epExists]

section HostGuards

variable {s : State}

theorem needsStarted_stopped (h : s.periph.started = false) : needsStarted s = some .notStarted := by simp [needsStarted, h]

theorem suspendGuard_stopped (h : s.periph.started = false) : suspendGuard s = some .notStarted := by simp [suspendGuard, h]

theorem resumeGuard_stopped (h : s.periph.started = false) : resumeGuard s = some .notStarted := by simp [resumeGuard, h]

theorem suspendGuard_suspended (h : s.periph.started = true) (hd : s.ctl.devState = .suspended) :
    suspendGuard s = some .suspended := by simp [suspendGuard, isSuspended, h, hd]

theorem setupGuard_suspended (addr : BitVec 7) (bytes : List Byte) (h : s.periph.started = true)
    (hd : s.ctl.devState = .suspended) : setupGuard addr bytes s = some .suspended := by simp [setupGuard, isSuspended, h, hd]

theorem outGuard_suspended (addr : BitVec 7) {ep : EpAddr} (bytes : List Byte) (he : ep.isIn = false)
    (h : s.periph.started = true) (hd : s.ctl.devState = .suspended) : outGuard addr ep bytes s = some .suspended := by
  simp [outGuard, isSuspended, he, h, hd]

theorem inGuard_suspended {ep : EpAddr} (he : ep.isIn = true) (h : s.periph.started = true)
    (hd : s.ctl.devState = .suspended) : inGuard ep s = some .suspended := by simp [inGuard, isSuspended, he, h, hd]

theorem resumeGuard_notSuspended (h : s.periph.started = true) (hd : s.ctl.devState ≠ .suspended)
    (hp : s.periph.pendSuspend = false) : resumeGuard s = some .notSuspended := by simp [resumeGuard, isSuspended, h, hd, hp]

end HostGuards

section Events

variable {i : Instr} {s : State} (hf : s.fault = none)
  (hi : i = .evReset ∨ i = .evSuspend ∨ i = .evResume ∨ ∃ a, i = .evCtr a)

theorem eventGuard_notPending {isPending : State → Bool} (h : isPending s = false) :
    eventGuard isPending s = some .notPending := by simp [eventGuard, h]

theorem eventGuard_resetFirst {isPending : State → Bool} (h : isPending s = true) (hr : s.periph.pendReset = true) :
    eventGuard isPending s = some .resetFirst := by simp [eventGuard, h, hr]

include hf hi

/-- A handler step of an event that is not pending does not exist (60 R336). -/
theorem exec_event_notPending (hp : ¬ EventPending i s) : exec i s = .fault (.noStep .notPending) := by
  rcases hi with rfl | rfl | rfl | ⟨a, rfl⟩
  · simp only [exec, execEvReset]
    exact guardedStep_noStep hf (if_neg (by simpa using hp)) busReset
  · exact guardedStep_noStep hf (eventGuard_notPending (by simpa using hp)) _
  · exact guardedStep_noStep hf (eventGuard_notPending (by simpa using hp)) _
  · exact guardedStep_noStep hf (eventGuard_notPending (by simpa using hp)) _

/-- While a bus reset is pending no other event is serviced (60 R335). -/
theorem exec_event_resetFirst (hp : EventPending i s) (hr : s.periph.pendReset = true) (hne : i ≠ .evReset) :
    exec i s = .fault (.noStep .resetFirst) := by
  rcases hi with rfl | rfl | rfl | ⟨a, rfl⟩
  · exact absurd rfl hne
  · exact guardedStep_noStep hf (eventGuard_resetFirst (by simpa using hp) hr) _
  · exact guardedStep_noStep hf (eventGuard_resetFirst (by simpa using hp) hr) _
  · exact guardedStep_noStep hf (eventGuard_resetFirst (by simpa using hp) hr) _

end Events

/-- Settles O21: each step is guarded, and its guard says what is false. -/
theorem falseGuardsHaveNoStep : Obligations.FalseGuardsHaveNoStep := by
  intro s hf
  have noStep {g f w} (hg : g s = some w) : guardedStep s g f = .fault (.noStep w) := guardedStep_noStep hf hg f
  have resumeNoStep {w} (hg : resumeGuard s = some w) : exec .hostResume s = .fault (.noStep w) := by
    simp only [exec, execHostResume]
    exact noStep hg
  refine ⟨fun hs => ⟨?_, ?_, ?_⟩, fun hs hd => ⟨?_, fun addr bytes => ?_, fun addr ep bytes he => ?_, fun addr ep he => ?_⟩,
    fun hs hd hp => ?_, fun i hi => ⟨exec_event_notPending hf hi, exec_event_resetFirst hf hi⟩⟩
  · exact noStep (needsStarted_stopped hs)
  · exact noStep (suspendGuard_stopped hs)
  · exact resumeNoStep (resumeGuard_stopped hs)
  · exact noStep (suspendGuard_suspended hs hd)
  · exact noStep (setupGuard_suspended addr bytes hs hd)
  · exact noStep (outGuard_suspended addr bytes he hs hd)
  · exact noStep (inGuard_suspended he hs hd)
  · exact resumeNoStep (resumeGuard_notSuspended hs hd hp)

end Sys2Proof.Proofs
end

section
/-!
PROOFS of the state family (10_state R23, R27, R28, R29, R41): what every step keeps of the memory, the allocator, the device session, the
transfers and the packet-memory regions, and the power-on state. An invariant is a relation every write stays within (`Closed`), so exec
and step stay within it.
-/

namespace Sys2Proof.Proofs

open Sys2Proof.Machine

/-! ## What every write keeps -/

/-- What every write of an instruction keeps, but for the moves of the device state and the resets: the configuration, the allocator
within packet memory and growing, the device session, the canonical form of memory; and no write clears the fault. -/
structure Calm (s t : State) : Prop where
  cfg : t.cfg = s.cfg
  grows : s.pmaNext ≤ t.pmaNext
  fits : s.pmaNext ≤ s.cfg.pmaSize → t.pmaNext ≤ s.cfg.pmaSize
  devState : t.ctl.devState = s.ctl.devState
  savedState : t.ctl.savedState = s.ctl.savedState
  classActive : t.ctl.classActive = s.ctl.classActive
  fault : t.fault = none → s.fault = none
  memory : MemoryCanonical s → MemoryCanonical t

namespace Calm

theorem trans {s t u : State} (h₁ : Calm s t) (h₂ : Calm t u) : Calm s u where
  cfg := h₂.cfg.trans h₁.cfg
  grows := h₁.grows.trans h₂.grows
  fits h := by
    have := h₂.fits
    rw [h₁.cfg] at this
    exact this (h₁.fits h)
  devState := h₂.devState.trans h₁.devState
  savedState := h₂.savedState.trans h₁.savedState
  classActive := h₂.classActive.trans h₁.classActive
  fault h := h₁.fault (h₂.fault h)
  memory h := h₂.memory (h₁.memory h)

/-- A write of the fields that nothing here speaks of. -/
theorem of_frame {s t : State} (h : t = { s with
    eps := t.eps, hws := t.hws, periph := t.periph, script := t.script, answers := t.answers, classRuns := t.classRuns,
    draws := t.draws, lastOut := t.lastOut, ret := t.ret, calls := t.calls }) : Calm s t := by
  rw [h]
  exact ⟨rfl, le_rfl, id, rfl, rfl, rfl, id, id⟩

theorem raise (s : State) (r : FaultReason) : Calm s (s.raise r) := by
  rw [raise_eq]
  exact ⟨rfl, le_rfl, id, rfl, rfl, rfl, by simp, id⟩

theorem modCtl (s : State) {f : Control → Control} (h : ∀ c, (f c).devState = c.devState ∧ (f c).savedState = c.savedState
    ∧ (f c).classActive = c.classActive) (hm : memWf s.ctl.scratch = true → memWf (f s.ctl).scratch = true) : Calm s (s.modCtl f) where
  cfg := rfl
  grows := le_rfl
  fits := id
  devState := (h s.ctl).1
  savedState := (h s.ctl).2.1
  classActive := (h s.ctl).2.2
  fault := id
  memory := fun ⟨h₁, h₂, h₃, h₄⟩ => ⟨h₁, h₂, hm h₃, h₄⟩

theorem modScsi (s : State) {f : Scsi → Scsi} (hm : memWf s.scsi.work = true → memWf (f s.scsi).work = true) :
    Calm s (s.modScsi f) :=
  ⟨rfl, le_rfl, id, rfl, rfl, rfl, id, fun ⟨h₁, h₂, h₃, h₄, h₅⟩ => ⟨h₁, h₂, h₃, hm h₄, h₅⟩⟩

theorem modBot (s : State) {f : Bot → Bot} (hm : memWf s.bot.cbwBuf = true → memWf (f s.bot).cbwBuf = true)
    (hm' : memWf s.bot.cswBuf = true → memWf (f s.bot).cswBuf = true) : Calm s (s.modBot f) :=
  ⟨rfl, le_rfl, id, rfl, rfl, rfl, id, fun ⟨h₁, h₂, h₃, h₄, h₅, h₆, h₇⟩ => ⟨h₁, h₂, h₃, h₄, hm h₅, hm' h₆, h₇⟩⟩

theorem store (s : State) (a : Nat) (bs : List Byte) : Calm s (s.modApp (fun m => memWrite m a bs)) :=
  ⟨rfl, le_rfl, id, rfl, rfl, rfl, id, fun ⟨h₁, h₂, h₃⟩ => ⟨h₁, memWf_memWrite h₂ a bs, h₃⟩⟩

theorem storeBlock (s : State) (n : Nat) (bs : List Byte) : Calm s (setStorageBlock n bs s) :=
  ⟨rfl, le_rfl, id, rfl, rfl, rfl, id,
    fun ⟨h₁, h₂, h₃, h₄, h₅, h₆, h₇⟩ => ⟨h₁, h₂, h₃, h₄, h₅, h₆, memWfOver_memWriteOver h₇ (512 * n) bs⟩⟩

theorem pmaStore (s : State) (off : Nat) (bs : List Byte) : Calm s (s.modPma (fun m => memWrite m off bs)) :=
  ⟨rfl, le_rfl, id, rfl, rfl, rfl, id, fun ⟨h₁, h₂⟩ => ⟨memWf_memWrite h₁ off bs, h₂⟩⟩

theorem pmaWrite (s : State) (off : Nat) (bs : List Byte) : Calm s (pmaWrite off bs s) := by
  rcases pmaWrite_cases off bs s with e | e <;> rw [e]
  · exact pmaStore s off bs
  · exact raise s _

theorem bufWrite (s : State) (b : BufRef) (off : Nat) (bs : List Byte) : Calm s (bufWrite b off bs s) := by
  rcases bufWrite_only b off bs s with e | e | e | e | ⟨a, e⟩ | e | e <;> rw [e]
  · exact modCtl s (fun _ => ⟨rfl, rfl, rfl⟩) (memWf_memWrite · _ bs)
  · exact modScsi s (memWf_memWrite · _ bs)
  · exact modBot s (memWf_memWrite · _ bs) id
  · exact modBot s id (memWf_memWrite · _ bs)
  · exact store s a bs
  · exact of_frame rfl
  · exact raise s _

theorem setPmaNext {s : State} {n : Nat} (hn : s.pmaNext ≤ n) (hf : s.pmaNext ≤ s.cfg.pmaSize → n ≤ s.cfg.pmaSize) :
    Calm s (s.setPmaNext n) := ⟨rfl, hn, hf, rfl, rfl, rfl, id, id⟩

theorem pmaAlloc (s : State) (n : Nat) : Calm s (pmaAlloc n s) := by
  rcases pmaAlloc_cases n s with ⟨-, e⟩ | ⟨hn, e⟩ <;> rw [e]
  · exact raise s _
  · exact setPmaNext (Nat.le_add_right ..) fun _ => hn

theorem useAnswer (s : State) : Calm s (useAnswer s) := by
  unfold Machine.useAnswer
  split <;> exact of_frame rfl

theorem enterClassRun (s : State) (c : ClassCall) : Calm s { useClassRun s with calls := c :: s.calls } := by
  unfold useClassRun
  split <;> exact of_frame rfl

/-- EP_OPEN, also where it faults on its second region, takes from the allocator within packet memory (40 R152). -/
theorem epOpen (s : State) (ep : EpAddr) (ty : EpType) (mps : Nat) (cb : CallbackId) : Calm s (epOpen ep ty mps cb s) := by
  rcases epOpen_cases ep ty mps cb s with e | ⟨hfault, e, hle, hfit⟩ | ⟨hf, hn, h₁, h₂, hp⟩
  · rw [e]
    exact raise s _
  · generalize Machine.epOpen ep ty mps cb s = t at *
    rw [e]
    exact ⟨rfl, hle, fun h => hfit.elim (· ▸ h) id, rfl, rfl, rfl, fun h => absurd h hfault, id⟩
  · obtain ⟨-, -, -, htaken, e, -⟩ := epOpen_spec (ty := ty) (cb := cb) hf hn h₁ h₂ hp
    generalize Machine.epOpen ep ty mps cb s = t at *
    rw [e]
    exact ⟨rfl, htaken ▸ Nat.le_add_right .., fun _ => htaken ▸ hp, rfl, rfl, rfl, id, id⟩

theorem loadIn (s : State) (ep : EpAddr) : Calm s (loadIn ep s) := by
  rcases loadIn_cases ep s with e | ⟨-, e⟩ | ⟨-, e⟩ <;> rw [e]
  · exact raise s _
  · exact pmaStore s ..
  · exact (pmaStore s ..).trans (of_frame rfl)

end Calm

/-! ## Relations every write stays within -/

/-- The record of one endpoint may differ; no other record does. -/
def OneRecord (ep : EpAddr) (s t : State) : Prop := Calm s t ∧ ∀ a, a ≠ ep → t.ep a = s.ep a

theorem ep_of_eps {s t : State} (h : t.eps = s.eps) (a : EpAddr) : t.ep a = s.ep a := by simp [State.ep, h]

theorem OneRecord.trans {ep : EpAddr} {s t u : State} (h₁ : OneRecord ep s t) (h₂ : OneRecord ep t u) : OneRecord ep s u :=
  ⟨h₁.1.trans h₂.1, fun a ha => (h₂.2 a ha).trans (h₁.2 a ha)⟩

theorem modEp_oneRecord (s : State) (ep : EpAddr) (f : EpRec → EpRec) : OneRecord ep s (s.modEp ep f) :=
  ⟨.of_frame rfl, fun _ => ep_modEp_ne s f⟩

theorem postTransfer_oneRecord (s : State) (ep : EpAddr) (buf : BufRef) (len : Nat) :
    OneRecord ep s (postTransfer ep buf len s) := (modEp_oneRecord s ep _).trans ⟨.of_frame rfl, fun _ _ => rfl⟩

/-- An EP_OPEN that raises no fault writes one record: no transfer is active on it, and its regions are those just taken from the
allocator (40 R152). -/
theorem epOpen_record {s : State} {ep : EpAddr} {ty : EpType} {mps : Nat} {cb : CallbackId}
    (hf : (epOpen ep ty mps cb s).fault = none) : OneRecord ep s (epOpen ep ty mps cb s)
      ∧ ((epOpen ep ty mps cb s).ep ep).active = false
      ∧ ∀ r ∈ regionsOf ((epOpen ep ty mps cb s).ep ep), s.pmaNext ≤ r.1 ∧ r.1 + r.2 ≤ (epOpen ep ty mps cb s).pmaNext := by
  rcases epOpen_cases ep ty mps cb s with e | ⟨hne, -⟩ | ⟨hs, hn, h₁, h₂, hp⟩
  · simp [e] at hf
  · exact absurd hf hne
  · obtain ⟨-, he, -, htaken, -, ho⟩ := epOpen_spec (ty := ty) (cb := cb) hs hn h₁ h₂ hp
    refine ⟨⟨.epOpen .., fun a ha => (ho a (by simpa using ha)).1⟩, by rw [he], fun r hr => ?_⟩
    rw [htaken, openTakes]
    rw [he, regionsOf] at hr
    cases hd : isDbuf s.cfg ep <;> simp only [hd, if_true, Bool.false_eq_true, if_false, List.mem_cons, List.not_mem_nil,
      or_false] at hr ⊢
    · subst hr
      exact ⟨le_rfl, le_rfl⟩
    · rcases hr with rfl | rfl <;> constructor <;> dsimp only <;> omega

/-- Of the endpoint's record load_in_packet writes only how many bytes are in flight: where it raises no fault, those of the next
packet (40 R161). -/
theorem loadIn_record (s : State) (ep : EpAddr) : OneRecord ep s (loadIn ep s) ∧
    ∃ n, (loadIn ep s).ep ep = { s.ep ep with inflight := n } ∧ ((loadIn ep s).fault = none → n = nextSize ep s) := by
  refine ⟨⟨.loadIn .., fun a ha => ?_⟩, ?_⟩
  · rcases loadIn_cases ep s with e | ⟨-, e⟩ | ⟨-, e⟩ <;> rw [e]
    · simp
    · simp
    · exact ep_modEp_ne _ _ ha
  · rcases loadIn_cases ep s with e | ⟨hf, e⟩ | ⟨-, e⟩ <;> rw [e]
    · exact ⟨_, raise_ep .., by simp⟩
    · exact ⟨_, modPma_ep .., fun h => absurd h hf⟩
    · exact ⟨_, ep_modEp_same .., fun _ => rfl⟩

/-- `Closed`, with the writes that change no endpoint's record asked for at once. -/
structure RecordClosed (R : State → State → Prop) : Prop where
  trans : ∀ {s t u}, R s t → R t u → R s u
  quiet : ∀ {s t}, Calm s t → t.eps = s.eps → R s t
  epOpen : ∀ s ep ty mps cb, R s (epOpen ep ty mps cb s)
  close : ∀ s ep, R s (s.modEp ep closeRecord)
  stall : ∀ s ep, R s (s.modEp ep (fun e => { e with stalled := true, active := false }))
  destall : ∀ s ep, R s (s.modEp ep (fun e => { e with stalled := false }))
  endTransfer : ∀ s ep, R s (s.modEp ep (fun e => { e with active := false }))
  post : ∀ s ep buf len, ep.isIn = false → (s.ep ep).isOpen = true → R s (postTransfer ep buf len s)
  postLoad : ∀ s ep buf len, ep.isIn = true → (s.ep ep).isOpen = true → R s (loadIn ep (postTransfer ep buf len s))
  countOut : ∀ s ep n, ep.isIn = false → (s.ep ep).active = true → R s (countBytes ep n s)
  countLoad : ∀ s ep n, ep.isIn = true → (s.ep ep).active = true → R s (loadIn ep (countBytes ep n s))
  countEnd : ∀ s ep n, ep.isIn = true → R s ((countBytes ep n s).modEp ep (fun e => { e with active := false }))

theorem pmaWrite_eps (s : State) (off : Nat) (bs : List Byte) : (pmaWrite off bs s).eps = s.eps := by
  rcases pmaWrite_cases off bs s with e | e <;> rw [e] <;> simp

theorem bufWrite_eps (s : State) (b : BufRef) (off : Nat) (bs : List Byte) : (bufWrite b off bs s).eps = s.eps := by
  rcases bufWrite_only b off bs s with e | e | e | e | ⟨_, e⟩ | e | e <;> rw [e] <;> simp

theorem pmaAlloc_eps (s : State) (n : Nat) : (pmaAlloc n s).eps = s.eps := by
  rcases pmaAlloc_cases n s with ⟨-, e⟩ | ⟨-, e⟩ <;> rw [e] <;> simp

theorem useAnswer_eps (s : State) : (useAnswer s).eps = s.eps := by
  unfold useAnswer
  split <;> rfl

theorem useClassRun_eps (s : State) : (useClassRun s).eps = s.eps := by
  unfold useClassRun
  split <;> rfl

theorem RecordClosed.closed {R : State → State → Prop} (h : RecordClosed R) : Closed R where
  refl _ := h.quiet (.of_frame rfl) rfl
  trans := h.trans
  raise s r := h.quiet (.raise s r) (raise_eps s r)
  hw _ _ _ := h.quiet (.of_frame rfl) rfl
  hws _ _ := h.quiet (.of_frame rfl) rfl
  periph _ _ := h.quiet (.of_frame rfl) rfl
  answer _ _ := h.quiet (.of_frame rfl) rfl
  returning _ _ := h.quiet (.of_frame rfl) rfl
  useAnswer s := h.quiet (.useAnswer s) (useAnswer_eps s)
  useDraw _ := h.quiet (.of_frame rfl) rfl
  enterClassRun s c := h.quiet (.enterClassRun s c) (useClassRun_eps s)
  ctl s f hf := h.quiet (.modCtl s (fun c => ⟨(hf c).1, (hf c).2.1, (hf c).2.2.1⟩) (by rw [(hf s.ctl).2.2.2]; exact id)) rfl
  scsi s f hf := h.quiet (.modScsi s (by rw [hf]; exact id)) rfl
  bot s f hf := h.quiet (.modBot s (by rw [(hf s.bot).1]; exact id) (by rw [(hf s.bot).2]; exact id)) rfl
  pmaWrite s off bs := h.quiet (.pmaWrite ..) (pmaWrite_eps ..)
  bufWrite s b off bs := h.quiet (.bufWrite ..) (bufWrite_eps ..)
  storeBlock s n bs := h.quiet (.storeBlock ..) rfl
  store s a bs := h.quiet (.store ..) rfl
  alloc s n := h.quiet (.pmaAlloc ..) (pmaAlloc_eps ..)
  epOpen := h.epOpen
  close := h.close
  stall := h.stall
  destall := h.destall
  endTransfer := h.endTransfer
  post := h.post
  postLoad := h.postLoad
  countOut := h.countOut
  countLoad := h.countLoad
  countEnd := h.countEnd

/-- A relation that `Calm` is within does not see the endpoint records. -/
theorem closed_of_calm {R : State → State → Prop} (trans : ∀ {s t u}, R s t → R t u → R s u)
    (calm : ∀ {s t}, Calm s t → R s t) : Closed R :=
  RecordClosed.closed {
    trans := trans
    quiet := fun h _ => calm h
    epOpen := fun s ep ty mps cb => calm (.epOpen s ep ty mps cb)
    close := fun _ _ => calm (.of_frame rfl)
    stall := fun _ _ => calm (.of_frame rfl)
    destall := fun _ _ => calm (.of_frame rfl)
    endTransfer := fun _ _ => calm (.of_frame rfl)
    post := fun _ _ _ _ _ _ => calm (.of_frame rfl)
    postLoad := fun _ ep _ _ _ _ => calm (.trans (.of_frame rfl) (.loadIn _ ep))
    countOut := fun _ _ _ _ _ => calm (.of_frame rfl)
    countLoad := fun _ ep _ _ _ => calm (.trans (.of_frame rfl) (.loadIn _ ep))
    countEnd := fun _ _ _ _ => calm (.of_frame rfl) }

theorem calm_closed : Closed Calm := closed_of_calm Calm.trans id

/-! ## Invariants of a step -/

/-- `t` has the property where `s` has it, and no fault is cleared on the way: a property may be one of unfaulted states only. -/
def Keeps (P : State → Prop) (s t : State) : Prop := (t.fault = none → s.fault = none) ∧ (P s → P t)

theorem Keeps.trans {P : State → Prop} {s t u : State} (h₁ : Keeps P s t) (h₂ : Keeps P t u) : Keeps P s u :=
  ⟨fun h => h₁.1 (h₂.1 h), fun h => h₂.2 (h₁.2 h)⟩

/-- A property that every write, a bus reset, a suspend and a power-on keep is kept by every step. -/
theorem step_keeps {P : State → Prop} (h : Closed (Keeps P)) (script : ∀ s l, P s → P { s with script := l })
    (moves : DeviceMoves (Keeps P)) (suspend : ∀ s, P s → P (suspendService s)) (reset : ∀ s, P s → P (resetFields s))
    (power : ∀ s, s.fault = none → P s → P (powerOnFields s)) {s t : State} (hs : P s) (ht : step s = .next t) : P t := by
  have hr : ∀ u, Keeps P u (resetFields u) := fun u => ⟨id, reset u⟩
  refine (h.step (fun s l => ⟨id, script s l⟩) ht fun i u he => ?_).2 hs
  refine h.exec he (fun _ => h.requestMoves moves) (fun _ => ⟨id, suspend u⟩) (fun _ => h.resumeService moves u)
    (fun _ => h.busReset moves hr u) fun hi => ?_
  subst hi
  have hf := (agentStep_next he).1
  exact h.powerOn hr ⟨fun _ => hf, power u hf⟩

/-! ## Suspend and resume (41 R243, R244) -/

/-- A suspend saves the device state, once. -/
theorem suspendService_ctl (s : State) :
    s.ctl.devState = .suspended ∧ (suspendService s).ctl = s.ctl
      ∨ s.ctl.devState ≠ .suspended
        ∧ (suspendService s).ctl = { s.ctl with savedState := s.ctl.devState, devState := .suspended } := by
  by_cases h : s.ctl.devState = .suspended <;> simp [suspendService, h]

/-- A resume restores it. -/
theorem resumeService_ctl (s : State) :
    s.ctl.devState = .suspended ∧ (resumeService s).ctl = { s.ctl with devState := s.ctl.savedState }
      ∨ s.ctl.devState ≠ .suspended ∧ (resumeService s).ctl = s.ctl := by
  by_cases h : s.ctl.devState = .suspended <;> simp [resumeService, h]

/-! ## Memory, the allocator and the saved state (20_memory R70-R73, 10_state R27, R28) -/

theorem memoryCanonical_closed : Closed (Keeps MemoryCanonical) := closed_of_calm Keeps.trans fun h => ⟨h.fault, h.memory⟩

theorem boundsKept_closed : Closed (Keeps BoundsKept) := closed_of_calm Keeps.trans fun h => ⟨h.fault, fun ⟨h₁, h₂, h₃⟩ =>
  ⟨h.cfg ▸ h₁.trans h.grows, h.cfg ▸ h.fits h₂, h.savedState ▸ h₃⟩⟩

theorem step_memoryCanonical {s t : State} (hs : MemoryCanonical s) (ht : step s = .next t) : MemoryCanonical t := by
  refine step_keeps memoryCanonical_closed (fun _ _ => id) (fun s f hf => ⟨id, ?_⟩) (fun s => ?_) (fun _ => id) (fun s _ => ?_) hs ht
  · rintro ⟨h₁, h₂, h₃, h₄⟩
    exact ⟨h₁, h₂, (hf s.ctl).2 ▸ h₃, h₄⟩
  · rintro ⟨h₁, h₂, h₃, h₄⟩
    refine ⟨h₁, h₂, ?_, h₄⟩
    rcases suspendService_ctl s with ⟨-, e⟩ | ⟨-, e⟩ <;> rw [e] <;> exact h₃
  · rintro ⟨-, happ, -, -, -, -, hblocks⟩
    exact ⟨rfl, happ, rfl, rfl, rfl, rfl, hblocks⟩

theorem step_boundsKept {s t : State} (hs : BoundsKept s) (ht : step s = .next t) : BoundsKept t := by
  refine step_keeps boundsKept_closed (fun _ _ => id) (fun s f hf => ⟨id, ?_⟩) (fun s => ?_) (fun s => ?_) (fun s _ => ?_) hs ht
  · rintro ⟨h₁, h₂, h₃⟩
    exact ⟨h₁, h₂, (hf s.ctl).1 ▸ h₃⟩
  · rintro ⟨h₁, h₂, h₃⟩
    refine ⟨h₁, h₂, ?_⟩
    rcases suspendService_ctl s with ⟨-, e⟩ | ⟨hd, e⟩ <;> rw [e]
    · exact h₃
    · exact hd
  · rintro ⟨h₁, h₂, -⟩
    exact ⟨le_rfl, h₁.trans h₂, by simp [resetFields, resetSession, setHwAddress]⟩
  · rintro ⟨h₁, h₂, -⟩
    exact ⟨le_rfl, h₁.trans h₂, by simp [powerOnFields, State.powerOn]⟩

/-! ## The instructions that may move the device state (10_state R29) -/

/-- The instruction is a suspend, a resume or a reset. -/
def SuspendsOrResets (i : Instr) : Prop := i = .evReset ∨ i = .evSuspend ∨ i = .evResume ∨ i = .rstPowerOn

/-- Every other instruction stays within a relation that every write stays within; the requests that move the device state are asked
for only where the instruction may serve one. -/
theorem exec_closed {R : State → State → Prop} (h : Closed R) {i : Instr} {s t : State} (he : exec i s = .next t)
    (hm : MovesDevice i s → RequestMoves R) (hi : ¬ SuspendsOrResets i) : R s t :=
  h.exec he hm (fun e => absurd (.inr (.inl e)) hi) (fun e => absurd (.inr (.inr (.inl e))) hi)
    (fun e => absurd (.inl e) hi) (fun e => absurd (.inr (.inr (.inr e))) hi)

theorem exec_calm {i : Instr} {s t : State} (he : exec i s = .next t) (hm : ¬ MovesDevice i s) (hi : ¬ SuspendsOrResets i) :
    Calm s t := exec_closed calm_closed he (fun h => absurd h hm) hi

/-- Settles O60: an instruction of no row named makes calm writes only. -/
theorem deviceStateMovesOnlyByItsTransitions : Obligations.DeviceStateMovesOnlyByItsTransitions := by
  intro i s t he hne
  by_contra hi
  refine hne (exec_calm he (fun hm => hi ?_) (fun hs => hi ?_)).devState
  · rcases hm with h | h | h <;> simp [h]
  · rcases hs with h | h | h | h <;> simp [h]

/-! ## A class is active where the device is Configured (10_state R28) -/

/-- The device is Configured, or Suspended from Configured. -/
def WasConfigured (s : State) : Prop :=
  s.ctl.devState = .configured ∨ s.ctl.devState = .suspended ∧ s.ctl.savedState = .configured

/-- What R28's sentence speaks of is as before. -/
def SameClass (s t : State) : Prop := (WasConfigured t ↔ WasConfigured s) ∧ t.ctl.classActive = s.ctl.classActive

theorem SameClass.classActiveSound {s t : State} (h : SameClass s t) (hf : s.fault = none) (hs : ClassActiveSound s) :
    ClassActiveSound t := fun _ => by
  rw [h.2]
  exact (hs hf).trans h.1.symm

theorem SameClass.configuredHasClass {s t : State} (h : SameClass s t) (hf : s.fault = none) (hs : ConfiguredHasClass s) :
    ConfiguredHasClass t := fun _ ht => by
  rw [h.2]
  exact hs hf (h.1.mp ht)

theorem suspendService_sameClass (s : State) : SameClass s (suspendService s) := by
  unfold SameClass WasConfigured
  rcases suspendService_ctl s with ⟨-, e⟩ | ⟨hd, e⟩ <;> rw [e]
  · simp
  · simp [hd]

theorem resumeService_sameClass (s : State) : SameClass s (resumeService s) := by
  unfold SameClass WasConfigured
  rcases resumeService_ctl s with ⟨hd, e⟩ | ⟨-, e⟩ <;> rw [e]
  · simp +contextual [hd]
  · simp

/-- The device is not Suspended, and a class is active exactly where it is Configured. -/
def Settled (s : State) : Prop := s.ctl.devState ≠ .suspended ∧ (s.ctl.classActive = true ↔ s.ctl.devState = .configured)

theorem Settled.classActiveSound {s : State} (h : Settled s) : ClassActiveSound s := fun _ =>
  h.2.trans ⟨.inl, fun h' => h'.elim id fun hs => absurd hs.1 h.1⟩

theorem settled_of_configured {s : State} (hd : s.ctl.devState = .configured) (hc : s.ctl.classActive = true) : Settled s := by
  simp [Settled, hd, hc]

theorem settled_of_inactive {s : State} (hd : s.ctl.devState = .addressed ∨ s.ctl.devState = .default)
    (hc : s.ctl.classActive = false) : Settled s := by
  rcases hd with hd | hd <;> simp [Settled, hd, hc]

theorem Calm.settled {s t : State} (h : Calm s t) (hs : Settled s) : Settled t := by
  unfold Settled
  rw [h.devState, h.classActive]
  exact hs

theorem ClassActiveSound.configuredHasClass {s : State} (h : ClassActiveSound s) : ConfiguredHasClass s := fun hf => (h hf).mpr

/-! ### What the requests do to the session (41 R223, R230) -/

/-- The fields that the state of the class depends on are as before. -/
def SameSession (s t : State) : Prop :=
  t.ctl.devState = s.ctl.devState ∧ t.ctl.savedState = s.ctl.savedState ∧ t.ctl.classActive = s.ctl.classActive

theorem SameSession.sameClass {s t : State} (h : SameSession s t) : SameClass s t := by
  obtain ⟨hd, hv, hc⟩ := h
  simp [SameClass, WasConfigured, hd, hv, hc]

theorem Calm.sameSession {s t : State} (h : Calm s t) : SameSession s t := ⟨h.devState, h.savedState, h.classActive⟩

/-- A SET_ADDRESS has been accepted: the device was not Configured and is Addressed or Default; its class is as before. -/
def Readdressed (s t : State) : Prop :=
  s.ctl.devState ≠ .configured ∧ (t.ctl.devState = .addressed ∨ t.ctl.devState = .default)
    ∧ t.ctl.classActive = s.ctl.classActive

/-- What serving requests does to the session, where no fault is raised. -/
def RequestServed (s t : State) : Prop :=
  t.fault = none → s.fault = none ∧ (SameSession s t ∨ Settled t ∨ Readdressed s t)

/-- The three outcomes compose: a settled device has no class active when it is readdressed. -/
theorem RequestServed.trans {s t u : State} (h₁ : RequestServed s t) (h₂ : RequestServed t u) : RequestServed s u := by
  intro hf
  obtain ⟨ht, h₂⟩ := h₂ hf
  obtain ⟨hs, h₁⟩ := h₁ ht
  refine ⟨hs, ?_⟩
  rcases h₂ with ⟨d₂, v₂, c₂⟩ | h₂ | ⟨n₂, d₂, c₂⟩
  · simp only [SameSession, Settled, Readdressed, d₂, v₂, c₂]
    exact h₁
  · exact .inr (.inl h₂)
  · rcases h₁ with ⟨d₁, -, c₁⟩ | ⟨-, h₁⟩ | ⟨n₁, -, c₁⟩
    · exact .inr (.inr ⟨d₁ ▸ n₂, d₂, c₂.trans c₁⟩)
    · exact .inr (.inl (settled_of_inactive d₂ (by rw [c₂, ← Bool.not_eq_true, h₁]; exact n₂)))
    · exact .inr (.inr ⟨n₁, d₂, c₂.trans c₁⟩)

theorem Calm.requestServed {s t : State} (h : Calm s t) : RequestServed s t := fun hf => ⟨h.fault hf, .inl h.sameSession⟩

theorem requestServed_closed : Closed RequestServed := closed_of_calm RequestServed.trans Calm.requestServed

theorem deviceSetAddress_served (v i l : BitVec 16) (s : State) : RequestServed s (deviceSetAddress v i l s) := by
  unfold deviceSetAddress
  split
  · exact requestServed_closed.reject s
  · rename_i hr
    refine RequestServed.trans (t := s.modCtl _) ?_ (requestServed_closed.ctlStatus _)
    refine fun hf => ⟨hf, .inr (.inr ⟨fun hd => hr (by simp [hd]), ?_, rfl⟩)⟩
    simp only [modCtl_ctl]
    split <;> simp

/-- A sequence that ends without a fault has run. -/
theorem andThen_unfaulted {s : State} {f : State → State} (h : (s.andThen f).fault = none) :
    s.fault = none ∧ s.andThen f = f s := by
  rcases andThen_cases s f with ⟨r, hf, e⟩ | h'
  · rw [e, hf] at h
    cases h
  · exact h'

/-- When the class has been left without a fault, none is active. -/
theorem leaveClass_inactive {s : State} (hf : (leaveClass s).fault = none) :
    s.fault = none ∧ (leaveClass s).ctl.classActive = false := by
  unfold leaveClass at hf ⊢
  split
  · rename_i hc
    rw [if_pos hc] at hf
    obtain ⟨hd, e⟩ := andThen_unfaulted hf
    rw [e]
    exact ⟨(calm_closed.classDeinit s).fault hd, rfl⟩
  · rename_i hc
    rw [if_neg hc] at hf
    exact ⟨hf, by simpa using hc⟩

theorem enterClass_settled {v : BitVec 16} {s : State} (hf : (enterClass v s).fault = none) : Settled (enterClass v s) := by
  unfold enterClass at hf ⊢
  rw [(andThen_unfaulted hf).2]
  exact settled_of_configured rfl rfl

/-- SET_CONFIGURATION is rejected, or it leaves the device settled. -/
theorem deviceSetConfiguration_settles (v : BitVec 16) (s : State) :
    Calm s (deviceSetConfiguration v s)
      ∨ ((deviceSetConfiguration v s).fault = none → s.fault = none ∧ Settled (deviceSetConfiguration v s)) := by
  by_cases hr : s.ctl.devState = .default ∨ s.cfg.maxConfiguration < v.toNat
  · left
    rw [deviceSetConfiguration, if_pos hr]
    exact calm_closed.reject s
  · right
    intro hf
    rw [deviceSetConfiguration, if_neg hr] at hf ⊢
    obtain ⟨hf₃, e₃⟩ := andThen_unfaulted hf
    obtain ⟨hf₂, e₂⟩ := andThen_unfaulted hf₃
    obtain ⟨hf₁, e₁⟩ := andThen_unfaulted hf₂
    obtain ⟨hs, hleft⟩ := leaveClass_inactive hf₁
    rw [e₃]
    refine ⟨hs, (calm_closed.ctlStatus _).settled ?_⟩
    rw [e₂] at hf₃ ⊢
    by_cases hv : v = 0
    · rw [if_pos hv, e₁]
      exact settled_of_inactive (.inl rfl) hleft
    · rw [if_neg hv] at hf₃ ⊢
      exact enterClass_settled hf₃

theorem deviceSetConfiguration_served (v : BitVec 16) (s : State) : RequestServed s (deviceSetConfiguration v s) :=
  (deviceSetConfiguration_settles v s).elim Calm.requestServed fun h hf => ⟨(h hf).1, .inr (.inl (h hf).2)⟩

theorem requestServed_requestMoves : RequestMoves RequestServed := ⟨deviceSetAddress_served, deviceSetConfiguration_served⟩

/-! ### What the resets leave (70 R371, R372) -/

theorem reopenControl_settled {s : State} (h : s.ctl.classActive = false) : Settled (reopenControl s) :=
  Calm.settled (calm_closed.andThen (.epOpen ..) (.epOpen ..)) (settled_of_inactive (s := resetFields s) (.inr rfl) h)

theorem busReset_settled {s : State} (hf : (busReset s).fault = none) : Settled (busReset s) := by
  obtain ⟨hl, e⟩ := andThen_unfaulted hf
  unfold busReset
  rw [e]
  exact reopenControl_settled (leaveClass_inactive hl).2

theorem powerOn_settled {s : State} (hf : (powerOn s).fault = none) : Settled (powerOn s) := by
  obtain ⟨hb, e⟩ := andThen_unfaulted hf
  unfold powerOn
  rw [e]
  exact busReset_settled hb

theorem exec_reset_settled {i : Instr} {s t : State} (hi : i = .evReset ∨ i = .rstPowerOn) (he : exec i s = .next t)
    (hf : t.fault = none) : s.fault = none ∧ Settled t := by
  rcases hi with rfl | rfl
  · simp only [exec, execEvReset] at he
    obtain ⟨hs, -, rfl⟩ := guardedStep_next he
    exact ⟨hs, busReset_settled hf⟩
  · obtain ⟨hs, rfl⟩ := agentStep_next he
    exact ⟨hs, powerOn_settled hf⟩

/-! ### Every instruction, and every step -/

/-- The instruction may serve a SET_ADDRESS. -/
def ServesSetAddress (i : Instr) (s : State) : Prop :=
  (∃ d v x l, i = .setAddress d v x l) ∨ (i = .evCtr ctlOut ∧ (s.hw ctlOut).setup = true)

/-- What an instruction that raises no fault does to the session: it leaves the class as it was, or the device settled, or it has
served a SET_ADDRESS. -/
theorem exec_session {i : Instr} {s t : State} (he : exec i s = .next t) (hf : t.fault = none) :
    s.fault = none ∧ (SameClass s t ∨ Settled t ∨ ServesSetAddress i s ∧ Readdressed s t) := by
  by_cases hi : SuspendsOrResets i
  · rcases hi with hi | rfl | rfl | hi
    · exact (exec_reset_settled (.inl hi) he hf).imp_right fun h => .inr (.inl h)
    · obtain ⟨hs, -, rfl⟩ := guardedStep_next he
      exact ⟨hs, .inl (suspendService_sameClass s)⟩
    · obtain ⟨hs, -, rfl⟩ := guardedStep_next he
      exact ⟨hs, .inl (resumeService_sameClass s)⟩
    · exact (exec_reset_settled (.inr hi) he hf).imp_right fun h => .inr (.inl h)
  have served (ha : ServesSetAddress i s) :
      s.fault = none ∧ (SameClass s t ∨ Settled t ∨ ServesSetAddress i s ∧ Readdressed s t) :=
    (exec_closed requestServed_closed he (fun _ => requestServed_requestMoves) hi hf).imp_right
      (Or.imp SameSession.sameClass (Or.imp_right fun h => ⟨ha, h⟩))
  by_cases hm : MovesDevice i s
  · rcases hm with ha | ⟨d, v, x, l, rfl⟩ | hc
    · exact served (.inl ha)
    · obtain ⟨hs, rfl⟩ := agentStep_next he
      have hb := calm_closed.beginRequest (deviceReq d 9 v x l) s
      rcases deviceSetConfiguration_settles v (beginRequest (deviceReq d 9 v x l) s) with h | h
      · exact ⟨hs, .inl (hb.trans h).sameSession.sameClass⟩
      · exact ⟨hs, .inr (.inl (h hf).2)⟩
    · exact served (.inr hc)
  · have h := exec_calm he hm hi
    exact ⟨h.fault hf, .inl h.sameSession.sameClass⟩

/-- A device just readdressed is not Configured, nor Suspended. -/
theorem Readdressed.not_wasConfigured {s t : State} (h : Readdressed s t) : ¬ WasConfigured t := by
  unfold WasConfigured
  rcases h.2.1 with hd | hd <;> simp [hd]

/-- An accepted SET_ADDRESS leaves R28's sentence as it was, unless the device was Suspended from Configured. -/
theorem Readdressed.sameClass {s t : State} (h : Readdressed s t)
    (hn : ¬ (s.ctl.devState = .suspended ∧ s.ctl.savedState = .configured)) : SameClass s t :=
  ⟨iff_of_false h.not_wasConfigured fun hs => hs.elim h.1 hn, h.2.2⟩

theorem exec_configuredHasClass {i : Instr} {s t : State} (hs : ConfiguredHasClass s) (he : exec i s = .next t) :
    ConfiguredHasClass t := by
  intro hf
  obtain ⟨hsf, h | h | ⟨-, h⟩⟩ := exec_session he hf
  · exact h.configuredHasClass hsf hs hf
  · exact ClassActiveSound.configuredHasClass h.classActiveSound hf
  · exact fun hw => absurd hw h.not_wasConfigured

theorem exec_classActiveSound {i : Instr} {s t : State} (hs : ClassActiveSound s) (he : exec i s = .next t) :
    ClassActiveSound t
      ∨ MayReaddressSuspended i s ∧ (t.ctl.devState = .addressed ∨ t.ctl.devState = .default) := by
  by_cases hf : t.fault = none
  · obtain ⟨hsf, h | h | ⟨ha, h⟩⟩ := exec_session he hf
    · exact .inl (h.classActiveSound hsf hs)
    · exact .inl h.classActiveSound
    · by_cases hn : s.ctl.devState = .suspended ∧ s.ctl.savedState = .configured
      · exact .inr ⟨⟨hn.1, hn.2, ha⟩, h.2.1⟩
      · exact .inl ((h.sameClass hn).classActiveSound hsf hs)
  · exact .inl fun h => absurd h hf

theorem configuredHasClass_closed : Closed (Keeps ConfiguredHasClass) := closed_of_calm Keeps.trans fun h =>
  ⟨h.fault, fun hs hf => h.sameSession.sameClass.configuredHasClass (h.fault hf) hs hf⟩

theorem step_configuredHasClass {s t : State} (hs : ConfiguredHasClass s) (ht : step s = .next t) : ConfiguredHasClass t :=
  (configuredHasClass_closed.step (fun _ _ => ⟨id, id⟩) ht fun _ _ he =>
    ⟨fun hf => (exec_session he hf).1, fun hu => exec_configuredHasClass hu he⟩).2 hs

/-- Settles O56: memory and bounds are kept by every write and by the resets; of the session, `exec_session` says what each instruction
does. -/
theorem stepKeepsMemoryAndBounds : Obligations.StepKeepsMemoryAndBounds :=
  ⟨fun _ _ => step_memoryCanonical, fun _ _ => step_boundsKept, fun _ _ => step_configuredHasClass,
    fun _ _ _ => exec_classActiveSound,
    fun _ _ _ hi he hf => (exec_reset_settled hi he hf).2.classActiveSound hf⟩

/-! ## Transfers (10_state R23 (3), (4)) -/

/-- An active transfer of this record is on an open endpoint, and its IN packet in flight within its packet size and the transfer. -/
def TransferSound (a : EpAddr) (e : EpRec) : Prop :=
  e.active = true → e.isOpen = true ∧ (a.isIn = true → e.inflight ≤ e.mps ∧ e.inflight ≤ e.remaining)

theorem transferSound_inactive (a : EpAddr) {e : EpRec} (h : e.active = false) : TransferSound a e := fun h' => by
  rw [h] at h'
  cases h'

/-- A write of one record keeps the transfers sound if it leaves that record's so. -/
theorem OneRecord.keeps_transfersSound {ep : EpAddr} {s t : State} (h : OneRecord ep s t)
    (he : t.fault = none → TransferSound ep (s.ep ep) → TransferSound ep (t.ep ep)) : Keeps TransfersSound s t := by
  refine ⟨h.1.fault, fun hs hf a => ?_⟩
  by_cases ha : a = ep
  · subst ha
    exact he hf (hs (h.1.fault hf) a)
  · rw [h.2 a ha]
    exact hs (h.1.fault hf) a

theorem modEp_transfersSound (s : State) (ep : EpAddr) {f : EpRec → EpRec}
    (hf : TransferSound ep (s.ep ep) → TransferSound ep (f (s.ep ep))) : Keeps TransfersSound s (s.modEp ep f) :=
  (modEp_oneRecord s ep f).keeps_transfersSound fun _ h => by rw [ep_modEp_same]; exact hf h

/-- Where an endpoint with a transfer is open, loading its next packet makes the transfer sound, whatever was in flight (40 R161). -/
theorem loadIn_transferSound {s : State} {ep : EpAddr} (ho : (s.ep ep).active = true → (s.ep ep).isOpen = true)
    (hf : (loadIn ep s).fault = none) : TransferSound ep ((loadIn ep s).ep ep) := by
  obtain ⟨-, n, hn, hs⟩ := loadIn_record s ep
  rw [hn, hs hf]
  exact fun ha => ⟨ho ha, fun _ => ⟨Nat.min_le_right .., Nat.min_le_left ..⟩⟩

theorem epOpen_transfersSound (s : State) (ep : EpAddr) (ty : EpType) (mps : Nat) (cb : CallbackId) :
    Keeps TransfersSound s (epOpen ep ty mps cb s) := by
  by_cases hf : (epOpen ep ty mps cb s).fault = none
  · obtain ⟨h, ha, -⟩ := epOpen_record hf
    exact h.keeps_transfersSound fun _ _ => transferSound_inactive ep ha
  · exact ⟨fun h => absurd h hf, fun _ h => absurd h hf⟩

theorem transfersSound_recordClosed : RecordClosed (Keeps TransfersSound) where
  trans := Keeps.trans
  quiet h he := OneRecord.keeps_transfersSound (ep := ctlOut) ⟨h, fun a _ => ep_of_eps he a⟩ fun _ h' => by rwa [ep_of_eps he]
  epOpen := epOpen_transfersSound
  close s ep := modEp_transfersSound s ep fun _ => transferSound_inactive ep rfl
  stall s ep := modEp_transfersSound s ep fun _ => transferSound_inactive ep rfl
  destall s ep := modEp_transfersSound s ep id
  endTransfer s ep := modEp_transfersSound s ep fun _ => transferSound_inactive ep rfl
  post s ep buf len hd ho := (postTransfer_oneRecord ..).keeps_transfersSound fun _ _ _ =>
    ⟨by simpa [postTransfer] using ho, fun hi => by simp [hd] at hi⟩
  postLoad s ep buf len _ ho := ((postTransfer_oneRecord ..).trans (loadIn_record ..).1).keeps_transfersSound fun hf _ =>
    loadIn_transferSound (fun _ => by simpa [postTransfer] using ho) hf
  countOut s ep n hd _ := modEp_transfersSound s ep fun h ha => ⟨(h ha).1, fun hi => by simp [hd] at hi⟩
  countLoad s ep n _ _ := ((modEp_oneRecord ..).trans (loadIn_record ..).1).keeps_transfersSound fun hf h =>
    loadIn_transferSound (fun ha => by simpa [countBytes] using (h (by simpa [countBytes] using ha)).1) hf
  countEnd s ep n _ := ((modEp_oneRecord ..).trans (modEp_oneRecord ..)).keeps_transfersSound fun _ _ =>
    transferSound_inactive ep (by rw [ep_modEp_same])

theorem resetFields_closed (s : State) (a : EpAddr) : ((resetFields s).ep a).isOpen = false ∧ ((resetFields s).ep a).active = false := by
  simp [resetFields, setHwAddress, resetRemainder, closeRecord]

theorem powerOnFields_closed (s : State) (a : EpAddr) :
    ((powerOnFields s).ep a).isOpen = false ∧ ((powerOnFields s).ep a).active = false := by
  simp [powerOnFields, State.ep, EpRec.closed]

/-- Settles O57: a write of one record leaves that record's transfer sound, and the resets leave no transfer active. -/
theorem stepKeepsTransfersSound : Obligations.StepKeepsTransfersSound := fun _ _ =>
  step_keeps transfersSound_recordClosed.closed (fun _ _ => id) (fun _ _ _ => ⟨id, id⟩) (fun _ => id)
    (fun s _ _ a => transferSound_inactive a (resetFields_closed s a).2)
    (fun s _ _ _ a => transferSound_inactive a (powerOnFields_closed s a).2)

/-! ## Regions (10_state R23 (1), (2)) -/

/-- `RegionsSound`, with the allocator past its base: what an EP_OPEN keeps, since it takes from there. -/
def RegionsPlaced (s : State) : Prop := s.cfg.pmaBase ≤ s.pmaNext ∧ RegionsSound s

/-- A write of one record keeps the regions placed if each region of that record is one it had, or has just been allocated. -/
theorem OneRecord.keeps_regionsPlaced {ep : EpAddr} {s t : State} (h : OneRecord ep s t)
    (he : t.fault = none → (t.ep ep).isOpen = true → ∀ r ∈ regionsOf (t.ep ep),
      (s.ep ep).isOpen = true ∧ r ∈ regionsOf (s.ep ep) ∨ s.pmaNext ≤ r.1 ∧ r.1 + r.2 ≤ t.pmaNext) :
    Keeps RegionsPlaced s t := by
  obtain ⟨hc, ho⟩ := h
  refine ⟨hc.fault, fun ⟨hbase, hs⟩ => ⟨by rw [hc.cfg]; exact hbase.trans hc.grows, fun hf a ha r hr => ?_⟩⟩
  have hsf := hc.fault hf
  have hgrows := hc.grows
  have old_or_new : ∀ b, (t.ep b).isOpen = true → ∀ q ∈ regionsOf (t.ep b),
      (s.ep b).isOpen = true ∧ q ∈ regionsOf (s.ep b) ∨ b = ep ∧ s.pmaNext ≤ q.1 ∧ q.1 + q.2 ≤ t.pmaNext := by
    intro b hb q hq
    by_cases hbe : b = ep
    · subst hbe
      exact (he hf hb q hq).imp_right fun h => ⟨rfl, h⟩
    · rw [ho b hbe] at hb hq
      exact .inl ⟨hb, hq⟩
  rw [hc.cfg]
  rcases old_or_new a ha r hr with ⟨ha', hr'⟩ | ⟨rfl, hr₁, hr₂⟩
  · obtain ⟨hlo, hhi, hapart⟩ := hs hsf a ha' r hr'
    refine ⟨hlo, hhi.trans hgrows, fun b hne hb q hq => ?_⟩
    rcases old_or_new b hb q hq with ⟨hb', hq'⟩ | ⟨-, hq₁, -⟩
    · exact hapart b hne hb' q hq'
    · exact .inl (hhi.trans hq₁)
  · refine ⟨hbase.trans hr₁, hr₂, fun b hne hb q hq => ?_⟩
    rcases old_or_new b hb q hq with ⟨hb', hq'⟩ | ⟨rfl, -⟩
    · obtain ⟨-, hhi, -⟩ := hs hsf b hb' q hq'
      exact .inr (hhi.trans hr₁)
    · exact absurd rfl hne

/-- Where the endpoint's regions stay and it is not opened. -/
theorem OneRecord.keeps_regionsPlaced_of_same {ep : EpAddr} {s t : State} (h : OneRecord ep s t)
    (ho : (t.ep ep).isOpen = true → (s.ep ep).isOpen = true) (hr : regionsOf (t.ep ep) = regionsOf (s.ep ep)) :
    Keeps RegionsPlaced s t :=
  h.keeps_regionsPlaced fun _ hopen _ hmem => .inl ⟨ho hopen, hr ▸ hmem⟩

theorem modEp_regionsPlaced (s : State) (ep : EpAddr) {f : EpRec → EpRec}
    (ho : (f (s.ep ep)).isOpen = true → (s.ep ep).isOpen = true) (hr : regionsOf (f (s.ep ep)) = regionsOf (s.ep ep)) :
    Keeps RegionsPlaced s (s.modEp ep f) :=
  (modEp_oneRecord s ep f).keeps_regionsPlaced_of_same (by rwa [ep_modEp_same]) (by rwa [ep_modEp_same])

theorem postTransfer_regionsPlaced (s : State) (ep : EpAddr) (buf : BufRef) (len : Nat) :
    Keeps RegionsPlaced s (postTransfer ep buf len s) :=
  (postTransfer_oneRecord ..).keeps_regionsPlaced_of_same (by simp [postTransfer]) (by simp [postTransfer, regionsOf])

theorem loadIn_regionsPlaced (s : State) (ep : EpAddr) : Keeps RegionsPlaced s (loadIn ep s) := by
  obtain ⟨h, n, e, -⟩ := loadIn_record s ep
  exact h.keeps_regionsPlaced_of_same (by rw [e]; exact id) (by rw [e]; rfl)

theorem epOpen_regionsPlaced (s : State) (ep : EpAddr) (ty : EpType) (mps : Nat) (cb : CallbackId) :
    Keeps RegionsPlaced s (epOpen ep ty mps cb s) := by
  have hc := Calm.epOpen s ep ty mps cb
  by_cases hf : (epOpen ep ty mps cb s).fault = none
  · obtain ⟨h, -, hr⟩ := epOpen_record hf
    exact h.keeps_regionsPlaced fun _ _ r hmem => .inr (hr r hmem)
  · exact ⟨hc.fault, fun hs => ⟨by rw [hc.cfg]; exact hs.1.trans hc.grows, fun h => absurd h hf⟩⟩

theorem regionsPlaced_recordClosed : RecordClosed (Keeps RegionsPlaced) where
  trans := Keeps.trans
  quiet h he := OneRecord.keeps_regionsPlaced_of_same (ep := ctlOut) ⟨h, fun a _ => ep_of_eps he a⟩
    (by rw [ep_of_eps he]; exact id) (by rw [ep_of_eps he])
  epOpen := epOpen_regionsPlaced
  close s ep := modEp_regionsPlaced s ep (by simp [closeRecord]) rfl
  stall s ep := modEp_regionsPlaced s ep id rfl
  destall s ep := modEp_regionsPlaced s ep id rfl
  endTransfer s ep := modEp_regionsPlaced s ep id rfl
  post s ep buf len _ _ := postTransfer_regionsPlaced s ep buf len
  postLoad s ep buf len _ _ := (postTransfer_regionsPlaced ..).trans (loadIn_regionsPlaced ..)
  countOut s ep n _ _ := modEp_regionsPlaced s ep id rfl
  countLoad s ep n _ _ := .trans (modEp_regionsPlaced s ep id rfl) (loadIn_regionsPlaced (countBytes ep n s) ep)
  countEnd s ep n _ := .trans (t := countBytes ep n s) (modEp_regionsPlaced s ep id rfl) (modEp_regionsPlaced _ ep id rfl)

/-- Where every endpoint is closed there is no region to place. -/
theorem regionsSound_of_closed {s : State} (h : ∀ a, (s.ep a).isOpen = false) : RegionsSound s := fun _ a ho => by
  rw [h a] at ho
  cases ho

/-- Settles O58: every region is one there was or has just been taken from the allocator, also after a reset has rewound it. -/
theorem stepKeepsRegionsDisjoint : Obligations.StepKeepsRegionsDisjoint := fun _ _ hs hb ht =>
  (step_keeps regionsPlaced_recordClosed.closed (fun _ _ => id) (fun _ _ _ => ⟨id, id⟩) (fun _ => id)
    (fun s _ => ⟨le_rfl, regionsSound_of_closed fun a => (resetFields_closed s a).1⟩)
    (fun s _ _ => ⟨le_rfl, regionsSound_of_closed fun a => (powerOnFields_closed s a).1⟩) ⟨hb.1, hs⟩ ht).2

/-! ## Power-on (10_state R41) -/

/-- Every other endpoint is closed and its status zero. -/
theorem powerOnState_other (c : Config) {a : EpAddr} (ho : a ≠ ctlOut) (hi : a ≠ ctlIn) :
    (State.powerOn c).ep a = EpRec.closed ∧ (State.powerOn c).hw a = EpHw.disabled := by
  have h0 : (0 : Nat) ≠ (epSlot a).val := fun h => ho (epSlot_injective (b := ctlOut) h.symm)
  have h16 : (16 : Nat) ≠ (epSlot a).val := fun h => hi (epSlot_injective (b := ctlIn) h.symm)
  simp [State.ep, State.hw, State.powerOn, h0, h16]

/-- Settles O31: all but the other endpoints' records is read off the power-on state. -/
theorem powerOnValues : Obligations.PowerOnValues := fun c =>
  ⟨rfl, rfl, rfl, rfl, rfl, fun _ ho hi => powerOnState_other c ho hi, rfl, rfl, rfl, rfl, rfl, rfl, rfl, rfl, rfl, rfl, rfl, rfl, rfl,
    rfl, rfl, rfl, rfl, rfl, rfl, rfl, rfl, rfl, rfl, rfl, rfl, rfl, rfl, rfl, fun _ => rfl, rfl⟩

/-- Only the control pair is open after power-on. -/
theorem powerOnState_isOpen {c : Config} {a : EpAddr} (h : ((State.powerOn c).ep a).isOpen = true) : a = ctlOut ∨ a = ctlIn := by
  by_contra hn
  rw [not_or] at hn
  rw [(powerOnState_other c hn.1 hn.2).1] at h
  cases h

theorem powerOnState_inactive (c : Config) (a : EpAddr) : ((State.powerOn c).ep a).active = false := by
  by_cases ho : a = ctlOut
  · rw [ho]; rfl
  · by_cases hi : a = ctlIn
    · rw [hi]; rfl
    · rw [(powerOnState_other c ho hi).1]; rfl

/-- The regions of the control pair follow one another from PMA_BASE. -/
theorem powerOnState_regionsSound (c : Config) : RegionsSound (State.powerOn c) := by
  intro _ a ha r hr
  have regions {b} {q : Nat × Nat} (hb : ((State.powerOn c).ep b).isOpen = true) (hq : q ∈ regionsOf ((State.powerOn c).ep b)) :
      b = ctlOut ∧ q = (c.pmaBase, c.ep0Mps) ∨ b = ctlIn ∧ q = (c.pmaBase + c.ep0Mps, c.ep0Mps) := by
    rcases powerOnState_isOpen hb with rfl | rfl
    · exact .inl ⟨rfl, List.mem_singleton.mp hq⟩
    · exact .inr ⟨rfl, List.mem_singleton.mp hq⟩
  have hnext : (State.powerOn c).pmaNext = c.pmaBase + 2 * c.ep0Mps := rfl
  have hbase : (State.powerOn c).cfg.pmaBase = c.pmaBase := rfl
  rw [hnext, hbase]
  refine ⟨?_, ?_, fun b hne hb q hq => ?_⟩
  · rcases regions ha hr with ⟨-, rfl⟩ | ⟨-, rfl⟩ <;> dsimp only <;> omega
  · rcases regions ha hr with ⟨-, rfl⟩ | ⟨-, rfl⟩ <;> dsimp only <;> omega
  · rcases regions ha hr with ⟨rfl, rfl⟩ | ⟨rfl, rfl⟩ <;> rcases regions hb hq with ⟨rfl, rfl⟩ | ⟨rfl, rfl⟩
    · exact absurd rfl hne
    · exact .inl le_rfl
    · exact .inr le_rfl
    · exact absurd rfl hne

theorem powerOnState_settled (c : Config) : Settled (State.powerOn c) := settled_of_inactive (.inr rfl) rfl

theorem powerOnState_boundsKept {c : Config} (h : configWf c = true) : BoundsKept (State.powerOn c) :=
  ⟨Nat.le_add_right .., (configWf_control h).1, by simp [State.powerOn]⟩

theorem exampleCfg_wf : configWf State.reset.cfg = true := by decide

/-- Settles O55: the power-on state is settled, no transfer is active, and the control pair's regions are the only ones. -/
theorem invariantsHoldAtPowerOn : Obligations.InvariantsHoldAtPowerOn := by
  refine ⟨fun c hc => ⟨reset_memory_canonical c, powerOnState_boundsKept hc, ?_, ?_, ?_, powerOnState_regionsSound c⟩, exampleCfg_wf,
    reset_memory_canonical _, powerOnState_boundsKept exampleCfg_wf⟩
  · exact (powerOnState_settled c).classActiveSound
  · exact ClassActiveSound.configuredHasClass (powerOnState_settled c).classActiveSound
  · exact fun _ a => transferSound_inactive a (powerOnState_inactive c a)

end Sys2Proof.Proofs
end

section
/-!
PROOFS of the encoding family (30_encoding R100-R121): each part of the encoder is undone by its part of the decoder, so every well-formed
instruction is read back from its word; and what the request, class-request and CBW decoders read from any bytes encodes to those bytes.
-/

namespace Sys2Proof.Proofs

/-- Settles O1: the decoder runs on each word. -/
theorem handWrittenWordsDecode : Obligations.HandWrittenWordsDecode :=
  ⟨rfl, rfl, rfl, rfl, rfl, rfl, rfl, rfl, rfl, rfl, rfl, rfl⟩

/-! ## Octets of a value (00_scope R8; 20_memory R75, R76) -/

@[simp] theorem octet_byte (b : Byte) : octet b 0 = b := BitVec.extractLsb'_eq_self

@[simp] theorem octet_append_zero {n : Nat} (a : BitVec n) (b : Byte) : octet (a ++ b) 0 = b :=
  BitVec.extractLsb'_append_eq_right

@[simp] theorem octet_append_succ {n : Nat} (a : BitVec n) (b : Byte) (k : Nat) : octet (a ++ b) (k + 1) = octet a k :=
  BitVec.extractLsb'_append_eq_of_le (by omega)

@[simp] theorem le16Bytes_le16 (a b : Byte) : le16Bytes (le16 a b) = [a, b] := by simp [le16Bytes, le16]

@[simp] theorem le32Bytes_le32 (a b c d : Byte) : le32Bytes (le32 a b c d) = [a, b, c, d] := by simp [le32Bytes, le32]

theorem be16_octets (v : BitVec 16) : be16 (octet v 1) (octet v 0) = v := Machine.le16_octets v

theorem be32_octets (v : BitVec 32) : be32 (octet v 3) (octet v 2) (octet v 1) (octet v 0) = v := by
  have h2 : octet v 3 ++ octet v 2 = v.extractLsb' 16 16 := BitVec.extractLsb'_append_extractLsb'_eq_extractLsb' rfl
  have h1 : v.extractLsb' 16 16 ++ octet v 1 = v.extractLsb' 8 24 := BitVec.extractLsb'_append_extractLsb'_eq_extractLsb' rfl
  have h0 : v.extractLsb' 8 24 ++ octet v 0 = v := BitVec.extractLsb'_append_extractLsb' (w := 24)
  rw [be32, h2, h1, h0]

theorem le32_octets (v : BitVec 32) : le32 (octet v 0) (octet v 1) (octet v 2) (octet v 3) = v := be32_octets v

/-- Four bytes are the octets of the value they make. -/
theorem le32_eq_iff (a b c d : Byte) (v : BitVec 32) : le32 a b c d = v ↔ [a, b, c, d] = le32Bytes v := by
  constructor
  · rintro rfl
    rw [le32Bytes_le32]
  · intro h
    simp only [le32Bytes, List.cons.injEq, and_true] at h
    obtain ⟨rfl, rfl, rfl, rfl⟩ := h
    exact le32_octets v

/-! ## Bytes of a word -/

/-- The first bytes of a byte string, read one at a time. -/
theorem take_eq_map_byteAt {bs : List Byte} {n : Nat} (h : n ≤ bs.length) : bs.take n = (List.range n).map (byteAt bs) := by
  apply List.ext_getElem
  · simpa using h
  · intro k hk _
    have hk' : k < bs.length := by simp at hk; omega
    simp [byteAt, List.getElem?_eq_getElem hk']

/-- A request's bytes by name. -/
theorem vector8_eq (b : Vector Byte 8) : b = #v[b[0], b[1], b[2], b[3], b[4], b[5], b[6], b[7]] := by
  apply Vector.ext
  intro k hk
  interval_cases k <;> rfl

theorem vector16_eq (b : Vector Byte 16) :
    b = #v[b[0], b[1], b[2], b[3], b[4], b[5], b[6], b[7], b[8], b[9], b[10], b[11], b[12], b[13], b[14], b[15]] := by
  apply Vector.ext
  intro k hk
  interval_cases k <;> rfl

/-! ## Operands (30_encoding R103, R121) -/

theorem getLsbD_ofBool_append {n : Nat} (b : Bool) (x : BitVec n) : (BitVec.ofBool b ++ x).getLsbD n = b := by
  rw [BitVec.getLsbD_append]
  simp

@[simp] theorem decodeEp_encodeEp (e : EpAddr) : decodeEp (encodeEp e) = e := by
  have hnum : (encodeEp e).extractLsb' 0 4 = e.num := BitVec.extractLsb'_append_eq_right
  have hdir : (encodeEp e).getLsbD 7 = e.isIn := BitVec.getLsbD_append.trans (getLsbD_ofBool_append e.isIn 0#3)
  rw [decodeEp, hnum, hdir]

@[simp] theorem decodeAddr_encodeAddr (a : BitVec 7) : decodeAddr (encodeAddr a) = some a := by
  have hlow : (encodeAddr a).extractLsb' 0 7 = a := BitVec.extractLsb'_append_eq_right
  have htop : (encodeAddr a).getLsbD 7 = false := getLsbD_ofBool_append false a
  rw [decodeAddr, hlow, htop]
  rfl

@[simp] theorem decodeEpType_encodeEpType (t : EpType) : decodeEpType (encodeEpType t) = some t := by cases t <;> rfl

theorem decodeArray_arrayCode (a : BufArray) : decodeArray (arrayCode a) (arrayPlace a).1 (arrayPlace a).2 = some a := by
  cases a <;> rfl

/-! ## Operation words (30_encoding R120) -/

theorem decodeOneEp_encodeEp (f : EpAddr → Instr) (e : EpAddr) : decodeOneEp f [encodeEp e] = .ok (f e) := by
  rw [decodeOneEp, decodeEp_encodeEp]

theorem decode_epOpen (e : EpAddr) (t : EpType) (m : BitVec 16) (cb : CallbackId) :
    decode (encode (.epOpen e t m cb)) = .ok (.epOpen e t m cb) := by
  cases cb <;> simp [decode, decodeOp, encode, le16Bytes, encodeCallback, decodeEpOpen, decodeCallback, Machine.le16_octets]

theorem decodeEpBufLen_encodeBuf (f : EpAddr → BufRef → BitVec 32 → Instr) (e : EpAddr) (b : BufRef) (n : BitVec 32) :
    decodeEpBufLen f (encodeEp e :: (encodeBuf b ++ le32Bytes n)) = .ok (f e b n) := by
  simp [decodeEpBufLen, decodeBuf, encodeBuf, le32Bytes, le32_octets, decodeArray_arrayCode]

theorem decodeBufLen_encodeBuf (f : BufRef → BitVec 16 → Instr) (b : BufRef) (n : BitVec 16) :
    decodeBufLen f (encodeBuf b ++ le16Bytes n) = .ok (f b n) := by
  simp [decodeBufLen, decodeBuf, encodeBuf, le32Bytes, le16Bytes, le32_octets, Machine.le16_octets, decodeArray_arrayCode]

theorem decodeAlloc_le32Bytes {size : Nat} (h : size < 2 ^ 32) :
    decodeAlloc (le32Bytes (BitVec.ofNat 32 size)) = .ok (.pmaAlloc size) := by
  rw [le32Bytes, decodeAlloc, le32_octets, BitVec.toNat_ofNat, Nat.mod_eq_of_lt h]

theorem decodeHostSetup_encodeAddr (a : BitVec 7) (bytes : List Byte) :
    decodeHostSetup (encodeAddr a :: bytes) = .ok (.hostSetup a bytes) := by
  simp [decodeHostSetup]

theorem decodeHostOut_encodeAddr (a : BitVec 7) (e : EpAddr) (bytes : List Byte) :
    decodeHostOut (encodeAddr a :: encodeEp e :: bytes) = .ok (.hostOut a e bytes) := by
  simp [decodeHostOut]

theorem decodeHostIn_encodeAddr (a : BitVec 7) (e : EpAddr) :
    decodeHostIn [encodeAddr a, encodeEp e] = .ok (.hostIn a e) := by
  simp [decodeHostIn]

/-! ## Control requests (30_encoding R101-R106, R116) -/

@[simp] theorem reqDir_setup (d : Bool) (t : BitVec 2) (p : BitVec 5) : reqDir (BitVec.ofBool d ++ t ++ p) = d :=
  BitVec.getLsbD_append.trans (getLsbD_ofBool_append d t)

@[simp] theorem reqType_setup (d : Bool) (t : BitVec 2) (p : BitVec 5) : reqType (BitVec.ofBool d ++ t ++ p) = t :=
  (BitVec.extractLsb'_append_eq_of_le (by decide)).trans BitVec.extractLsb'_append_eq_right

@[simp] theorem reqRecip_setup (d : Bool) (t : BitVec 2) (p : BitVec 5) : reqRecip (BitVec.ofBool d ++ t ++ p) = p :=
  BitVec.extractLsb'_append_eq_right

theorem requestType_fields (b : Byte) : BitVec.ofBool (reqDir b) ++ reqType b ++ reqRecip b = b := by
  have hdir : BitVec.ofBool (reqDir b) = b.extractLsb' 7 1 := by
    apply BitVec.eq_of_getLsbD_eq
    intro k hk
    obtain rfl : k = 0 := by omega
    simp [reqDir]
  have h1 : b.extractLsb' 7 1 ++ reqType b = b.extractLsb' 5 3 := BitVec.extractLsb'_append_extractLsb'_eq_extractLsb' rfl
  have h0 : b.extractLsb' 5 3 ++ reqRecip b = b := BitVec.extractLsb'_append_extractLsb' (w := 3)
  rw [hdir, h1, h0]

/-- Every eight bytes are a request's fields: R101 and R102 leave no bit out. -/
theorem setupBytes_fields (b : Vector Byte 8) :
    setupBytes (reqDir b[0]) (reqType b[0]) (reqRecip b[0]) b[1] (le16 b[2] b[3]) (le16 b[4] b[5]) (le16 b[6] b[7]) = b := by
  conv_rhs => rw [vector8_eq b]
  simp [setupBytes, requestType_fields, le16]

theorem eightBytes_toList (b : Vector Byte 8) : eightBytes b.toList = some b := by
  rcases b with ⟨⟨bs⟩, hb⟩
  exact dif_pos hb

theorem decode_setup (b : Vector Byte 8) : decode ⟨.setup, b.toList⟩ = .ok (decodeRequest b) := by
  simp only [decode, eightBytes_toList]

theorem decode_setupWord (d : Bool) (t : BitVec 2) (p : BitVec 5) (r : Byte) (v i l : BitVec 16) :
    decode (setupWord d t p r v i l) = .ok (decodeRequest (setupBytes d t p r v i l)) := decode_setup _

section Recipients

variable (d : Bool) (t : BitVec 2) (r : Byte) (v i l : BitVec 16)

theorem decodeRequest_device : decodeRequest (setupBytes d 0 0 r v i l) = decodeDeviceRequest d r v i l := by
  simp [decodeRequest, setupBytes, Machine.le16_octets]

theorem decodeRequest_interface : decodeRequest (setupBytes d t 1 r v i l) = .setupInterfaceForward d t r v i l := by
  simp [decodeRequest, setupBytes, Machine.le16_octets]

theorem decodeRequest_endpoint : decodeRequest (setupBytes d 0 2 r v i l) = decodeEndpointRequest d r v i l := by
  simp [decodeRequest, setupBytes, Machine.le16_octets]

theorem decode_deviceRequest : decode (setupWord d 0 0 r v i l) = .ok (decodeDeviceRequest d r v i l) := by
  rw [decode_setupWord, decodeRequest_device]

theorem decode_endpointRequest : decode (setupWord d 0 2 r v i l) = .ok (decodeEndpointRequest d r v i l) := by
  rw [decode_setupWord, decodeRequest_endpoint]

/-- A descriptor request whose type is the high octet of wValue (30_encoding R105). -/
theorem decode_descriptorWord (type index : Byte) :
    decode (descriptorWord d type index i l) = .ok (decodeGetDescriptor d (type ++ index) i l) := decode_deviceRequest d 6 _ i l

end Recipients

/-! The rows that take what the rows before them leave: a request is such a row's where the row's instruction is well-formed. -/

section CatchAllRows

variable {d : Bool} {t : BitVec 2} {p : BitVec 5} {r type index : Byte} {v i l : BitVec 16}

theorem decodeRequest_deviceOtherType (h : (Instr.deviceClassVendorReserved d t r v i l).wf = true) :
    decodeRequest (setupBytes d t 0 r v i l) = .deviceClassVendorReserved d t r v i l := by
  have ht : t ≠ 0#2 := bne_iff_ne.mp h
  simp [decodeRequest, setupBytes, Machine.le16_octets, ht]

theorem decodeRequest_endpointOtherType (h : (Instr.endpointClassVendorReserved d t r v i l).wf = true) :
    decodeRequest (setupBytes d t 2 r v i l) = .endpointClassVendorReserved d t r v i l := by
  have ht : t ≠ 0#2 := bne_iff_ne.mp h
  simp [decodeRequest, setupBytes, Machine.le16_octets, ht]

theorem decodeRequest_otherRecipient (h : (Instr.setupOtherRecipient d t p r v i l).wf = true) :
    decodeRequest (setupBytes d t p r v i l) = .setupOtherRecipient d t p r v i l := by
  have hp : 3 ≤ p.toNat := of_decide_eq_true h
  -- The catch-all arm is taken where none of the arms before it is.
  have h0 : p ≠ 0#5 := by rintro rfl; simp at hp
  have h1 : p ≠ 1#5 := by rintro rfl; simp at hp
  have h2 : p ≠ 2#5 := by rintro rfl; simp at hp
  simp [decodeRequest, setupBytes, Machine.le16_octets]

theorem decodeDeviceRequest_reserved (h : (Instr.deviceStandardReserved d r v i l).wf = true) :
    decodeDeviceRequest d r v i l = .deviceStandardReserved d r v i l := by
  simp_all [decodeDeviceRequest, Instr.wf, Instr.namedDeviceRequests]

theorem decodeEndpointRequest_other (h : (Instr.endpointStandardOther d r v i l).wf = true) :
    decodeEndpointRequest d r v i l = .endpointStandardOther d r v i l := by
  simp_all [decodeEndpointRequest, Instr.wf, Instr.namedEndpointRequests]

theorem decodeGetDescriptor_otherType (h : (Instr.getDescriptorOtherType d type index i l).wf = true) :
    decodeGetDescriptor d (type ++ index) i l = .getDescriptorOtherType d type index i l := by
  simp_all [decodeGetDescriptor, Instr.wf, Instr.namedDescriptorTypes]

end CatchAllRows

/-! ## Class requests (42_bot_scsi R265) -/

theorem decode_classReq (b : Vector Byte 8) : decode ⟨.classReq, b.toList⟩ = .ok (decodeClassReq b) := by
  simp only [decode, eightBytes_toList]

/-- The rows of a class request by its fields. -/
theorem decode_classReqWord (m r : Byte) (v i l : BitVec 16) :
    decode (classReqWord m r v i l) = .ok (
      if m = 0xA1 ∧ r = 0xFE then .getMaxLun v i l
      else if m = 0x21 ∧ r = 0xFF ∧ l = 0 then .bulkOnlyMassStorageReset v i
      else .classreqOther m r v i l) := by
  refine (decode_classReq #v[m, r, octet v 0, octet v 1, octet i 0, octet i 1, octet l 0, octet l 1]).trans (congrArg _ ?_)
  simp [decodeClassReq, Machine.le16_octets]

theorem classreqOther_wf_iff (m r : Byte) (v i l : BitVec 16) : (Instr.classreqOther m r v i l).wf = true ↔
    ¬(m = 0xA1 ∧ r = 0xFE) ∧ ¬(m = 0x21 ∧ r = 0xFF ∧ l = 0) := by
  simp only [Instr.wf, Instr.isMscRequest, Bool.not_eq_true', Bool.or_eq_false_iff, Bool.and_eq_false_iff, beq_eq_false_iff_ne]
  tauto

theorem decode_classreqOther {m r : Byte} {v i l : BitVec 16} (h : (Instr.classreqOther m r v i l).wf = true) :
    decode (classReqWord m r v i l) = .ok (.classreqOther m r v i l) := by
  obtain ⟨hmax, hreset⟩ := (classreqOther_wf_iff ..).mp h
  rw [decode_classReqWord, if_neg hmax, if_neg hreset]

/-! ## CBW (30_encoding R110) -/

/-- The model's check of R110 is the condition of the decoder. -/
theorem validCbw_iff (bs : List Byte) :
    Instr.validCbw bs = true ↔ bs.length = 31 ∧ le32 (byteAt bs 0) (byteAt bs 1) (byteAt bs 2) (byteAt bs 3) = 0x43425355
      ∧ byteAt bs 13 = 0 ∧ 1 ≤ (byteAt bs 14).toNat ∧ (byteAt bs 14).toNat ≤ 16 := by
  have key (h : bs.length = 31) : bs.take 4 = [byteAt bs 0, byteAt bs 1, byteAt bs 2, byteAt bs 3] :=
    take_eq_map_byteAt (by omega)
  have hsig : le32Bytes 0x43425355 = [0x55, 0x53, 0x42, 0x43] := rfl
  rw [le32_eq_iff, hsig]
  simp only [Instr.validCbw, Bool.and_eq_true, beq_iff_eq, decide_eq_true_eq, and_assoc]
  constructor
  · rintro ⟨hl, h⟩
    exact ⟨hl, key hl ▸ h⟩
  · rintro ⟨hl, h⟩
    exact ⟨hl, (key hl).symm ▸ h⟩

theorem decodeCbw_malformed {bs : List Byte} (h : (Instr.cbwMalformed bs).wf = true) : decodeCbw bs = .cbwMalformed bs := by
  have hv : Instr.validCbw bs ≠ true := by simpa [Instr.wf] using h
  exact if_neg ((validCbw_iff bs).not.mp hv)

theorem decode_cbw (tag len : BitVec 32) (flags n : Byte) (cdb : Vector Byte 16)
    (h : (Instr.cbw tag len flags n cdb).wf = true) :
    decode (encode (.cbw tag len flags n cdb)) = .ok (.cbw tag len flags n cdb) := by
  obtain ⟨h1, h16⟩ : 1 ≤ n.toNat ∧ n.toNat ≤ 16 := by simpa [Instr.wf] using h
  have hsig : le32 0x55#8 0x53#8 0x42#8 0x43#8 = 0x43425355#32 := rfl
  rw [vector16_eq cdb]
  simp [decode, encode, decodeCbw, byteAt, le32Bytes, le32_octets, hsig, h1, h16]

/-! ## CDB (30_encoding R112) -/

theorem decode_bareCdb (o : Byte) : decode (bareCdb o) = .ok (decodeCdb #v[o, 0, 0, 0, 0, 0, 0, 0, 0, 0, 0, 0, 0, 0, 0, 0]) := rfl

theorem decode_cdbUnsupported {o : Byte} (h : (Instr.cdbUnsupported o).wf = true) :
    decode (bareCdb o) = .ok (.cdbUnsupported o) := by
  simp_all [decode_bareCdb, decodeCdb, Instr.wf, Instr.namedOpcodes]

/-- A row that reads a block address and a block count finds them where `blockCdb` puts them. -/
theorem decode_blockCdb {o : Byte} {f : BitVec 32 → BitVec 16 → Instr}
    (hf : ∀ cdb : Vector Byte 16, cdb[0] = o → decodeCdb cdb = f (be32 cdb[2] cdb[3] cdb[4] cdb[5]) (be16 cdb[7] cdb[8]))
    (lba : BitVec 32) (count : BitVec 16) : decode (blockCdb o lba count) = .ok (f lba count) := by
  have hcdb := hf #v[o, 0, octet lba 3, octet lba 2, octet lba 1, octet lba 0, 0, octet count 1, octet count 0, 0, 0, 0, 0, 0, 0, 0] rfl
  simp only [Vector.getElem_mk, List.getElem_toArray, List.getElem_cons_succ, List.getElem_cons_zero, be32_octets, be16_octets] at hcdb
  exact congrArg Except.ok hcdb

/-! ## Every instruction -/

/-- Settles O2, by cases on the instruction. -/
theorem decodeOfEncode : Obligations.DecodeOfEncode := by
  intro i hwf
  cases i with
  | epOpen e t m cb => exact decode_epOpen e t m cb
  | epClose e => exact decodeOneEp_encodeEp .epClose e
  | epRead e b n => exact decodeEpBufLen_encodeBuf .epRead e b n
  | epWrite e b n => exact decodeEpBufLen_encodeBuf .epWrite e b n
  | epWriteZlp e => exact decodeOneEp_encodeEp .epWriteZlp e
  | epStall e => exact decodeOneEp_encodeEp .epStall e
  | epDestall e => exact decodeOneEp_encodeEp .epDestall e
  | epIsOpen e => exact decodeOneEp_encodeEp .epIsOpen e
  | epIsStalled e => exact decodeOneEp_encodeEp .epIsStalled e
  | pmaAlloc size => exact decodeAlloc_le32Bytes (of_decide_eq_true hwf)
  | ctlSend b n => exact decodeBufLen_encodeBuf .ctlSend b n
  | ctlReceive b n => exact decodeBufLen_encodeBuf .ctlReceive b n
  | hostBusReset => rfl
  | hostSetup a bytes => exact decodeHostSetup_encodeAddr a bytes
  | hostOut a e bytes => exact decodeHostOut_encodeAddr a e bytes
  | hostIn a e => exact decodeHostIn_encodeAddr a e
  | hostSuspend => rfl
  | hostResume => rfl
  | evReset => rfl
  | evCtr e => exact decodeOneEp_encodeEp .evCtr e
  | evSuspend => rfl
  | evResume => rfl
  | rstPowerOn => rfl
  | getStatusDevice d v i l => exact decode_deviceRequest d 0 v i l
  | clearFeatureDevice d v i l => exact decode_deviceRequest d 1 v i l
  | setFeatureDevice d v i l => exact decode_deviceRequest d 3 v i l
  | setAddress d v i l => exact decode_deviceRequest d 5 v i l
  | getDescriptorDevice d x i l => exact (decode_descriptorWord d i l 1 x).trans (by simp [decodeGetDescriptor])
  | getDescriptorConfiguration d x i l => exact (decode_descriptorWord d i l 2 x).trans (by simp [decodeGetDescriptor])
  | getDescriptorString d x i l => exact (decode_descriptorWord d i l 3 x).trans (by simp [decodeGetDescriptor])
  | getDescriptorDeviceQualifier d x i l => exact (decode_descriptorWord d i l 6 x).trans (by simp [decodeGetDescriptor])
  | getDescriptorOtherSpeedConfiguration d x i l => exact (decode_descriptorWord d i l 7 x).trans (by simp [decodeGetDescriptor])
  | getDescriptorOtherType d t x i l =>
    exact (decode_descriptorWord d i l t x).trans (congrArg _ (decodeGetDescriptor_otherType hwf))
  | setDescriptor d v i l => exact decode_deviceRequest d 7 v i l
  | getConfiguration d v i l => exact decode_deviceRequest d 8 v i l
  | setConfiguration d v i l => exact decode_deviceRequest d 9 v i l
  | getInterfaceDevice d v i l => exact decode_deviceRequest d 10 v i l
  | setInterfaceDevice d v i l => exact decode_deviceRequest d 11 v i l
  | synchFrameDevice d v i l => exact decode_deviceRequest d 12 v i l
  | deviceStandardReserved d r v i l =>
    exact (decode_deviceRequest d r v i l).trans (congrArg _ (decodeDeviceRequest_reserved hwf))
  | deviceClassVendorReserved d t r v i l =>
    exact (decode_setupWord d t 0 r v i l).trans (congrArg _ (decodeRequest_deviceOtherType hwf))
  | getStatusEndpoint d v i l => exact decode_endpointRequest d 0 v i l
  | clearFeatureEndpoint d v i l => exact decode_endpointRequest d 1 v i l
  | setFeatureEndpoint d v i l => exact decode_endpointRequest d 3 v i l
  | synchFrameEndpoint d v i l => exact decode_endpointRequest d 12 v i l
  | endpointStandardOther d r v i l =>
    exact (decode_endpointRequest d r v i l).trans (congrArg _ (decodeEndpointRequest_other hwf))
  | endpointClassVendorReserved d t r v i l =>
    exact (decode_setupWord d t 2 r v i l).trans (congrArg _ (decodeRequest_endpointOtherType hwf))
  | setupInterfaceForward d t r v i l =>
    exact (decode_setupWord d t 1 r v i l).trans (congrArg _ (decodeRequest_interface d t r v i l))
  | setupOtherRecipient d t p r v i l =>
    exact (decode_setupWord d t p r v i l).trans (congrArg _ (decodeRequest_otherRecipient hwf))
  | getMaxLun v i l => exact decode_classReqWord 0xA1 0xFE v i l
  | bulkOnlyMassStorageReset v i => exact decode_classReqWord 0x21 0xFF v i 0
  | classreqOther m r v i l => exact decode_classreqOther hwf
  | cbw tag len flags n cdb => exact decode_cbw tag len flags n cdb hwf
  | cbwMalformed bytes => exact congrArg Except.ok (decodeCbw_malformed hwf)
  | testUnitReady => rfl
  | requestSense => rfl
  | inquiry => rfl
  | modeSense6 => rfl
  | startStopUnit => rfl
  | preventAllowMediumRemoval => rfl
  | readFormatCapacities => rfl
  | readCapacity10 => rfl
  | read10 lba count => exact decode_blockCdb (fun cdb h => by simp [decodeCdb, h]) lba count
  | write10 lba count => exact decode_blockCdb (fun cdb h => by simp [decodeCdb, h]) lba count
  | verify10 lba count => exact decode_blockCdb (fun cdb h => by simp [decodeCdb, h]) lba count
  | modeSense10 => rfl
  | cdbUnsupported o => exact decode_cdbUnsupported hwf

/-! ## What a request, a class request and a CBW decode to -/

/-- The instruction is well-formed and `w` is its word: reading `w` as this instruction loses nothing. -/
def Reads (i : Instr) (w : OpWord) : Prop := i.wf = true ∧ encode i = w

section Requests

variable (d : Bool) (t : BitVec 2) (p : BitVec 5) (r : Byte) (v i l : BitVec 16)

theorem decodeGetDescriptor_reads : Reads (decodeGetDescriptor d v i l) (setupWord d 0 0 6 v i l) := by
  obtain ⟨type, index, rfl⟩ : ∃ type index : Byte, v = type ++ index := ⟨_, _, (be16_octets v).symm⟩
  simp only [decodeGetDescriptor, octet_append_zero, octet_append_succ, octet_byte]
  split
  case h_6 => exact ⟨by simp_all [Instr.wf, Instr.namedDescriptorTypes], rfl⟩
  all_goals exact ⟨rfl, rfl⟩

theorem decodeDeviceRequest_reads : Reads (decodeDeviceRequest d r v i l) (setupWord d 0 0 r v i l) := by
  unfold decodeDeviceRequest
  split
  case h_5 => exact decodeGetDescriptor_reads d v i l
  case h_12 => exact ⟨by simp_all [Instr.wf, Instr.namedDeviceRequests], rfl⟩
  all_goals exact ⟨rfl, rfl⟩

theorem decodeEndpointRequest_reads : Reads (decodeEndpointRequest d r v i l) (setupWord d 0 2 r v i l) := by
  unfold decodeEndpointRequest
  split
  case h_5 => exact ⟨by simp_all [Instr.wf, Instr.namedEndpointRequests], rfl⟩
  all_goals exact ⟨rfl, rfl⟩

theorem recipient_cases : p = 0 ∨ p = 1 ∨ p = 2 ∨ 3 ≤ p.toNat := by bv_omega

/-- The decode order of 30_encoding R116: by the recipient, then by the type. -/
theorem decodeRequest_setupBytes_reads : Reads (decodeRequest (setupBytes d t p r v i l)) (setupWord d t p r v i l) := by
  rcases recipient_cases p with rfl | rfl | rfl | hp
  · by_cases ht : t = 0
    · rw [ht, decodeRequest_device]
      exact decodeDeviceRequest_reads d r v i l
    · have hwf : (Instr.deviceClassVendorReserved d t r v i l).wf = true := bne_iff_ne.mpr ht
      rw [decodeRequest_deviceOtherType hwf]
      exact ⟨hwf, rfl⟩
  · rw [decodeRequest_interface]
    exact ⟨rfl, rfl⟩
  · by_cases ht : t = 0
    · rw [ht, decodeRequest_endpoint]
      exact decodeEndpointRequest_reads d r v i l
    · have hwf : (Instr.endpointClassVendorReserved d t r v i l).wf = true := bne_iff_ne.mpr ht
      rw [decodeRequest_endpointOtherType hwf]
      exact ⟨hwf, rfl⟩
  · have hwf : (Instr.setupOtherRecipient d t p r v i l).wf = true := decide_eq_true hp
    rw [decodeRequest_otherRecipient hwf]
    exact ⟨hwf, rfl⟩

end Requests

theorem decodeRequest_reads (b : Vector Byte 8) : Reads (decodeRequest b) ⟨.setup, b.toList⟩ := by
  have h := decodeRequest_setupBytes_reads (reqDir b[0]) (reqType b[0]) (reqRecip b[0]) b[1] (le16 b[2] b[3]) (le16 b[4] b[5])
    (le16 b[6] b[7])
  rwa [setupWord, setupBytes_fields] at h

theorem classReqWord_fields (b : Vector Byte 8) :
    classReqWord b[0] b[1] (le16 b[2] b[3]) (le16 b[4] b[5]) (le16 b[6] b[7]) = ⟨.classReq, b.toList⟩ := by
  conv_rhs => rw [vector8_eq b]
  simp [classReqWord]

theorem decodeClassReq_reads (b : Vector Byte 8) : Reads (decodeClassReq b) ⟨.classReq, b.toList⟩ := by
  rw [← classReqWord_fields b, decodeClassReq]
  split
  next h => exact ⟨rfl, by rw [h.1, h.2]; rfl⟩
  next hmax =>
    split
    next h => exact ⟨rfl, by rw [h.1, h.2.1, h.2.2]; rfl⟩
    next hreset => exact ⟨(classreqOther_wf_iff ..).mpr ⟨hmax, hreset⟩, rfl⟩

theorem decodeCbw_reads (bs : List Byte) : Reads (decodeCbw bs) ⟨.cbw, bs⟩ := by
  cases hv : Instr.validCbw bs with
  | false =>
    have hwf : (Instr.cbwMalformed bs).wf = true := by simp [Instr.wf, hv]
    rw [decodeCbw_malformed hwf]
    exact ⟨hwf, rfl⟩
  | true =>
    have hc := (validCbw_iff bs).mp hv
    rw [decodeCbw, if_pos hc]
    obtain ⟨hl, hsig, h13, h1, h16⟩ := hc
    refine ⟨by simp [Instr.wf, h1, h16], congrArg (OpWord.mk .cbw) ?_⟩
    have hbs : bs = (List.range 31).map (byteAt bs) := by
      rw [← take_eq_map_byteAt hl.ge, List.take_of_length_le hl.le]
    have hsig' : [byteAt bs 0, byteAt bs 1, byteAt bs 2, byteAt bs 3] = [0x55, 0x53, 0x42, 0x43] := (le32_eq_iff ..).mp hsig
    simp only [List.cons.injEq, and_true] at hsig'
    refine Eq.trans ?_ hbs.symm
    simp [List.range, List.range.loop, hsig', h13]

/-- Settles O3, each decoder by its own cases. -/
theorem requestDecodingKeepsEveryBit : Obligations.RequestDecodingKeepsEveryBit :=
  ⟨decodeRequest_reads, decodeClassReq_reads, decodeCbw_reads⟩

end Sys2Proof.Proofs
end

section
/-!
PROOFS of the endpoint-engine family (40_endpoint_engine R150-R176): the operations of the allocator and of the endpoints and where they
fault, the host's transactions on the bus, and the completion of a packet in the middle of a transfer.
-/

namespace Sys2Proof.Proofs

open Sys2Proof.Machine

/-! ## Frames of a write to one endpoint -/

/-- No byte lies in the endpoint tables or the allocator. -/
theorem bytesKept_of_frame {s t : State} {eps : Vector EpRec 32} {hws : Vector EpHw 32} {n : Nat}
    (h : t = { s with eps := eps, hws := hws, pmaNext := n }) : BytesKept s t := by
  subst h
  exact ⟨fun _ => rfl, fun _ _ => rfl, fun _ => rfl⟩

/-- Where the endpoint tables and packet memory alone are written, no buffer changes. -/
theorem buffersKept_of_frame {s t : State} {eps : Vector EpRec 32} {hws : Vector EpHw 32} {m : Mem}
    (h : t = { s with eps := eps, hws := hws, pma := m }) (b : BufRef) (i : Nat) : bufByte t b i = bufByte s b i := by
  subst h
  rfl

theorem otherEpsKept_trans {l : List EpAddr} {s t u : State} (h₁ : OtherEpsKept l s t) (h₂ : OtherEpsKept l t u) :
    OtherEpsKept l s u := fun a ha => ⟨(h₂ a ha).1.trans (h₁ a ha).1, (h₂ a ha).2.trans (h₁ a ha).2⟩

theorem otherEpsKept_modEp_modHw (s : State) (ep : EpAddr) (f : EpRec → EpRec) (g : EpHw → EpHw) :
    OtherEpsKept [ep] s ((s.modEp ep f).modHw ep g) := by
  intro a ha
  have hne : a ≠ ep := by simpa using ha
  simp [ep_modEp_ne _ _ hne, hw_modHw_ne _ _ hne]

theorem onlyEps_modEp_modHw (s : State) (ep : EpAddr) (f : EpRec → EpRec) (g : EpHw → EpHw) :
    OnlyEps [ep] s ((s.modEp ep f).modHw ep g) :=
  ⟨rfl, otherEpsKept_modEp_modHw s ep f g, bytesKept_of_frame rfl⟩

theorem otherEpsKept_modHw (s : State) (ep : EpAddr) (g : EpHw → EpHw) : OtherEpsKept [ep] s (s.modHw ep g) := by
  intro a ha
  exact ⟨rfl, hw_modHw_ne _ _ (by simpa using ha)⟩

/-- Packet memory after a write of `bytes` at `off`: the bytes are there, every other byte is as before. -/
theorem pma_written {s t : State} {off : Nat} {bytes : List Byte} (hp : t.pma = memWrite s.pma off bytes) (he : t.epoch = s.epoch) :
    (∀ i (h : i < bytes.length), pmaByte t (off + i) = bytes[i]) ∧ PmaKeptOutside off bytes.length s t := by
  constructor
  · intro i h
    rw [pmaByte, hp]
    exact byteOf_memWrite_in _ _ _ _ _ h
  · intro a ha
    rw [pmaByte, pmaByte, hp, he]
    exact byteOf_memWrite_out _ _ _ _ _ ha

/-! ## Answering a state, and raising a fault (R330) -/

theorem raise_running {s : State} (hf : s.fault = none) (r : FaultReason) : s.raise r = { s with fault := some r } := by
  rw [raise_eq, hf]
  rfl

theorem raise_andThen (s : State) (r : FaultReason) (f : State → State) : (s.raise r).andThen f = s.raise r :=
  andThen_faulted (raise_fault s r) f

theorem agentStep_answers {s t : State} {f : State → State} (hf : s.fault = none) (h : f s = t) : agentStep s f = .next t := by
  rw [agentStep_running hf, h]

theorem guardedStep_answers {s t : State} {g : State → Option NoStep} {f : State → State} (hf : s.fault = none) (hg : g s = none)
    (h : f s = t) : guardedStep s g f = .next t := by
  rw [guardedStep_running hf hg, h]

/-- An operation that raises a fault answers the state with that fault, and nothing else changes. -/
theorem agentStep_raises {s : State} {f : State → State} {r : FaultReason} (hf : s.fault = none) (h : f s = s.raise r) :
    agentStep s f = .next { s with fault := some r } :=
  agentStep_answers hf (h.trans (raise_running hf r))

/-! ## The allocator (R151) -/

theorem pmaAlloc_overflow {size : Nat} {s : State} (h : s.cfg.pmaSize < s.pmaNext + size) :
    pmaAlloc size s = s.raise .pmaOverflow := if_pos h

/-- Settles O7: PMA_ALLOC fits and the old offset is returned, or it raises the fault and returns nothing. -/
theorem pmaAllocCompletes : Obligations.PmaAllocCompletes := by
  intro s size hf
  refine ⟨fun h => ?_, fun h => agentStep_raises hf ?_⟩
  · refine agentStep_answers hf ?_
    rw [allocReturning, pmaAlloc_fits h, andThen_running (by exact hf)]
    rfl
  · rw [allocReturning, pmaAlloc_overflow h, raise_andThen]

/-! ## EP_OPEN (R152) -/

theorem openStat_eq (ep : EpAddr) (ty : EpType) :
    openStat ep ty = if ep.isIn = false then .valid else if ty = .isochronous then .disabled else .nak := by
  unfold openStat
  cases ep.isIn <;> rfl

theorem isDbuf_eq (c : Config) (ep : EpAddr) : isDbuf c ep = decide (ep ∈ c.dbuf) := by simp [isDbuf]

/-- Settles O8: `epOpen_spec` with DBUF(ep) read as membership; no byte lies in what it writes. -/
theorem epOpenCompletes : Obligations.EpOpenCompletes := by
  intro s ep ty mps cb hf hn h1 h2 hp
  have hfit : s.pmaNext + openTakes ep mps.toNat s ≤ s.cfg.pmaSize := by simpa [openTakes, isDbuf_eq] using hp
  obtain ⟨hfault, hep, hhw, hnext, hframe, hothers⟩ := epOpen_spec (ty := ty) (cb := cb) hf hn h1 h2 hfit
  refine ⟨_, agentStep_running hf _, hfault, ?_, ?_, ?_, hframe, hothers, bytesKept_of_frame hframe⟩
  · simpa [isDbuf_eq] using hep
  · rw [hhw, openStat_eq]
  · simpa [openTakes, isDbuf_eq] using hnext

/-- The record EP_OPEN allocates for: only `dbuf` is written yet. -/
def dbufSet (ep : EpAddr) (s : State) : State := s.modEp ep (fun e => { e with dbuf := isDbuf s.cfg ep })

/-- The first region has been handed out (R152). -/
def firstTaken (ep : EpAddr) (mps : Nat) (s : State) : State :=
  ((dbufSet ep s).setPmaNext (s.pmaNext + mps)).modEp ep (fun e => { e with off0 := s.pmaNext })

section EpOpen

variable {s : State} {ep : EpAddr} {ty : EpType} {mps : Nat} {cb : CallbackId}

theorem epOpen_badOperand (h : s.cfg.nEp ≤ ep.num.toNat ∨ mps = 0 ∨ 1023 < mps) : epOpen ep ty mps cb s = s.raise .badOperand := by
  refine if_pos ?_
  rcases h with h | h | h <;> simp [epExists, h]

variable (hf : s.fault = none) (hn : ep.num.toNat < s.cfg.nEp) (h1 : 1 ≤ mps) (h2 : mps ≤ 1023)

include hf hn h1 h2

/-- EP_OPEN whose operands are in range runs its allocations in order. -/
theorem epOpen_allocates : epOpen ep ty mps cb s
    = ((allocFirst ep mps (dbufSet ep s)).andThen (allocSecond ep mps)).andThen (openRecord ep ty mps cb) := by
  have hrange : ¬ (!epExists s.cfg ep || decide (mps = 0) || decide (1023 < mps)) = true := by
    simp [epExists]
    omega
  rw [epOpen, if_neg hrange]
  exact congrArg (fun t => State.andThen (State.andThen t (allocSecond ep mps)) (openRecord ep ty mps cb))
    (andThen_running (s := dbufSet ep s) hf (allocFirst ep mps))

/-- The first allocation passes PMA_SIZE: `dbuf` is all that has been written. -/
theorem epOpen_firstOverflow (h : s.cfg.pmaSize < s.pmaNext + mps) :
    epOpen ep ty mps cb s = (dbufSet ep s).raise .pmaOverflow := by
  rw [epOpen_allocates hf hn h1 h2, allocFirst, pmaAlloc_overflow (by exact h)]
  simp only [raise_andThen]

/-- The second allocation passes PMA_SIZE: the first region is handed out. -/
theorem epOpen_secondOverflow (hd : isDbuf s.cfg ep = true) (hp : s.pmaNext + mps ≤ s.cfg.pmaSize)
    (h : s.cfg.pmaSize < s.pmaNext + 2 * mps) : epOpen ep ty mps cb s = (firstTaken ep mps s).raise .pmaOverflow := by
  have hfirst : allocFirst ep mps (dbufSet ep s) = firstTaken ep mps s := by
    rw [allocFirst, pmaAlloc_fits (by exact hp), andThen_running (by exact hf)]
    rfl
  have hdbuf : ((firstTaken ep mps s).ep ep).dbuf = true := by simpa [firstTaken, dbufSet] using hd
  have hover : (firstTaken ep mps s).cfg.pmaSize < (firstTaken ep mps s).pmaNext + mps := by
    simp only [firstTaken, dbufSet, modEp_cfg, setPmaNext_cfg, modEp_pmaNext, setPmaNext_pmaNext]
    omega
  rw [epOpen_allocates hf hn h1 h2, hfirst, andThen_running (s := firstTaken ep mps s) hf, allocSecond, if_pos hdbuf,
    pmaAlloc_overflow hover]
  simp only [raise_andThen]

end EpOpen

/-! ## Where the operations fault (R150, R338) -/

theorem withChecks_raises {c : Option FaultReason} {r : FaultReason} (hc : c = some r) (cs : List (Option FaultReason))
    (f : State → State) (s : State) : withChecks (c :: cs) f s = s.raise r := by
  subst hc
  rfl

theorem checkOpen_missing {ep : EpAddr} {s : State} (h : s.cfg.nEp ≤ ep.num.toNat) : checkOpen ep s = some .badOperand := by
  simp [checkOpen, epExists, h]

theorem checkOpen_closed {ep : EpAddr} {s : State} (h : ep.num.toNat < s.cfg.nEp) (ho : (s.ep ep).isOpen = false) :
    checkOpen ep s = some .epNotOpen := by
  simp [checkOpen, epExists, h, ho]

/-- check_open comes first in every operation on an open endpoint. -/
theorem exec_checkOpen_fails {s : State} {ep : EpAddr} {buf : BufRef} {len : BitVec 32} {i : Instr} {r : FaultReason}
    (hf : s.fault = none) (hc : checkOpen ep s = some r)
    (hi : i ∈ [.epClose ep, .epRead ep buf len, .epWrite ep buf len, .epWriteZlp ep, .epStall ep, .epDestall ep]) :
    exec i s = .next { s with fault := some r } := by
  simp only [List.mem_cons, List.not_mem_nil, or_false] at hi
  rcases hi with rfl | rfl | rfl | rfl | rfl | rfl
  all_goals exact agentStep_raises hf (withChecks_raises hc _ _ s)

/-- check_dir comes next. -/
theorem checkDir_fails {s : State} {ep : EpAddr} {d : Bool} (h : EpUsable ep s) (hd : ep.isIn ≠ d)
    (cs : List (Option FaultReason)) (f : State → State) :
    withChecks (checkOpen ep s :: checkDir ep d :: cs) f s = s.raise .badOperand := by
  rw [checkOpen_usable h, checkDir, if_neg hd]
  rfl

/-- Settles O9: the operands and the two allocations of EP_OPEN, check_open, check_dir, and the control sub-state. -/
theorem engineOperationsFault : Obligations.EngineOperationsFault := by
  refine ⟨fun s ep ty mps cb hf => ⟨fun h => ?_, fun hn h1 h2 => ⟨fun h => ?_, fun hd hp h => ?_⟩⟩,
    fun s ep buf len i hf hi => ⟨fun h => exec_checkOpen_fails hf (checkOpen_missing h) hi,
      fun h ho => exec_checkOpen_fails hf (checkOpen_closed h ho) hi⟩,
    fun s ep buf len hu => ⟨fun hd => ?_, fun hd => ⟨?_, ?_⟩⟩, fun s buf len hf hc => ⟨?_, ?_⟩⟩
  · exact agentStep_raises hf (epOpen_badOperand (h.imp_right (.imp_left (by rintro rfl; rfl))))
  · refine ⟨_, agentStep_answers hf (epOpen_firstOverflow hf hn h1 h2 h), ?_⟩
    refine ⟨by simp [dbufSet, isDbuf_eq], by rw [raise_running (s := dbufSet ep s) hf]; rfl, fun a ha => ?_⟩
    have hne : a ≠ ep := by simpa using ha
    simp [dbufSet, ep_modEp_ne _ _ hne]
  · have hd' : isDbuf s.cfg ep = true := by simpa [isDbuf_eq] using hd
    refine ⟨_, agentStep_answers hf (epOpen_secondOverflow hf hn h1 h2 hd' hp h), ?_⟩
    refine ⟨by simp [firstTaken, dbufSet, hd'], by rw [raise_running (s := firstTaken ep mps.toNat s) hf]; rfl, fun a ha => ?_⟩
    have hne : a ≠ ep := by simpa using ha
    simp [firstTaken, dbufSet, ep_modEp_ne _ _ hne]
  · exact agentStep_raises hu.1 (checkDir_fails hu (by simp [hd]) _ _)
  · exact agentStep_raises hu.1 (checkDir_fails hu (by simp [hd]) _ _)
  · exact agentStep_raises hu.1 (checkDir_fails hu (by simp [hd]) _ _)
  · exact agentStep_raises hf (if_pos hc)
  · exact agentStep_raises hf (if_pos hc)

/-! ## EP_CLOSE, EP_READ, EP_WRITE, EP_STALL, EP_DESTALL and the queries (R153-R160) -/

/-- Settles O10: `epClose_eq`, written out. -/
theorem epCloseCompletes : Obligations.EpCloseCompletes := by
  intro s ep hu
  refine ⟨_, agentStep_answers hu.1 (epClose_eq hu), ?_, ?_, onlyEps_modEp_modHw ..⟩
  · simp [closeRecord]
  · simp [closeHw]

/-- Settles O11: `epRead_spec`. -/
theorem epReadCompletes : Obligations.EpReadCompletes := by
  intro s ep buf len hu hd hw
  obtain ⟨hposted, -, honly⟩ := epRead_spec hu hd hw
  exact ⟨_, agentStep_running hu.1 _, hposted, honly⟩

/-- Settles O12: `epWrite_spec`; a packet of no bytes leaves packet memory as it is. -/
theorem epWriteCompletes : Obligations.EpWriteCompletes := by
  intro s ep buf len hu hd hr
  refine ⟨fun hfit => ?_, ?_⟩
  · obtain ⟨hposted, -, hframe, hothers⟩ := epWrite_spec hu hd hfit hr
    exact ⟨_, agentStep_running hu.1 _, hposted, hframe, hothers, buffersKept_of_frame hframe⟩
  · obtain ⟨hposted, -, hframe, hothers⟩ := epWrite_spec (buf := .none) (len := 0) hu hd rfl hr
    obtain ⟨-, -, -, hkept⟩ := id hposted
    refine ⟨_, agentStep_running hu.1 _, hposted, hframe, hothers, fun a => hkept a ?_, buffersKept_of_frame hframe, fun a => ?_⟩
    · omega
    · show storageByte (epWrite ep .none 0 s) a = _
      rw [hframe]
      rfl

/-- Settles O13: `epStall_spec`, and `epDestall_eq` written out. -/
theorem epStallAndDestallComplete : Obligations.EpStallAndDestallComplete := by
  intro s ep hu
  obtain ⟨hstall, -, honly⟩ := epStall_spec hu
  refine ⟨⟨_, agentStep_running hu.1 _, hstall, honly⟩,
    ⟨_, agentStep_answers hu.1 (epDestall_eq hu), ?_, ?_, onlyEps_modEp_modHw ..⟩⟩
  · simp
  · simp

/-- Settles O14: both queries write `ret` alone. -/
theorem queriesComplete : Obligations.QueriesComplete :=
  fun _ _ hf => ⟨agentStep_running hf _, agentStep_running hf _⟩

/-! ## The bus signals (R170, R174, R175) -/

theorem exec_hostSuspend {s : State} (hf : s.fault = none) (hs : s.periph.started = true) (hd : s.ctl.devState ≠ .suspended) :
    exec .hostSuspend s = .next (suspendSignal s) :=
  guardedStep_running hf (by simp [suspendGuard, isSuspended, hs, hd]) _

theorem exec_hostResume {s : State} (hf : s.fault = none) (hg : resumeGuard s = none) :
    exec .hostResume s = .next ((s.modPeriph (fun p =>
      if p.pendSuspend then { p with pendSuspend := false } else { p with pendResume := true })).answer .none) := by
  simp only [exec, execHostResume]
  exact guardedStep_running hf hg _

/-- Settles O17, signal by signal under its guard. -/
theorem hostBusSignalsComplete : Obligations.HostBusSignalsComplete := by
  intro s hf hs
  refine ⟨⟨_, guardedStep_running hf (if_pos hs) _, ?_, hw_modHws _ _, rfl⟩,
    fun hd hp => ?_, fun hd hp => ?_, fun hp => ?_, fun hp hd => ?_⟩
  · simp [busResetSignal, hs]
  · rw [exec_hostSuspend hf hs hd, suspendSignal, if_neg (by simp [hp])]
    rfl
  · rw [exec_hostSuspend hf hs hd, suspendSignal, if_pos hp]
  · rw [exec_hostResume hf (by simp [resumeGuard, hs, hp])]
    simp [State.modPeriph, State.answer, hp]
  · rw [exec_hostResume hf (by simp [resumeGuard, isSuspended, hs, hd])]
    simp [State.modPeriph, State.answer, hp]

/-! ## HOST_SETUP (R171, R176) -/

theorem receiveSetup_eq {s : State} {bytes : List Byte} (hf : s.fault = none)
    (hfit : (s.ep ctlOut).off0 + bytes.length ≤ s.cfg.pmaSize) :
    receiveSetup bytes s = (((s.modPma (fun m => memWrite m (s.ep ctlOut).off0 bytes)).modHw ctlOut (fun h =>
        { h with count := bytes.length, setup := true, ctr := true, stat := .nak, dtog := true })).modHw ctlIn
      (fun h => { h with stat := .nak, dtog := true })).answer .ack := by
  rw [receiveSetup, pmaWrite_fits hfit, andThen_running (by exact hf)]

theorem exec_hostSetup_received {s : State} {addr : BitVec 7} {bytes : List Byte} (hf : s.fault = none)
    (hs : s.periph.started = true) (hd : s.ctl.devState ≠ .suspended) (ha : setupUnanswered addr s = false)
    (hlen : bytes.length ≤ s.cfg.ep0Mps) : exec (.hostSetup addr bytes) s = .next (receiveSetup bytes s) := by
  refine guardedStep_answers hf (by simp [setupGuard, isSuspended, hs, hd, hlen]) (if_neg ?_)
  simp [hs, ha]

theorem exec_hostSetup_unanswered {s : State} {addr : BitVec 7} (bytes : List Byte) (hf : s.fault = none)
    (h : s.periph.started = false ∨ s.ctl.devState ≠ .suspended ∧ setupUnanswered addr s = true) :
    exec (.hostSetup addr bytes) s = .next { s with lastOut := .none } := by
  rcases h with hs | ⟨hd, ha⟩
  · exact guardedStep_answers hf (by simp [setupGuard, hs]) (if_pos (by simp [hs]))
  · exact guardedStep_answers hf (by simp [setupGuard, isSuspended, hd, ha]) (if_pos (by simp [ha]))

/-- Settles O18: the packet is received, or the transaction is unanswered. -/
theorem hostSetupCompletes : Obligations.HostSetupCompletes := by
  intro s addr bytes hf
  refine ⟨fun hs hd ha hst hlen hfit => ?_, fun h => exec_hostSetup_unanswered bytes hf ?_⟩
  · have hans : setupUnanswered addr s = false := by simp [setupUnanswered, ha, hst]
    obtain ⟨hin, hout⟩ := pma_written (s := s) (t := receiveSetup bytes s) (off := (s.ep ctlOut).off0) (bytes := bytes)
      (by rw [receiveSetup_eq hf hfit]; rfl) (by rw [receiveSetup_eq hf hfit]; rfl)
    refine ⟨_, exec_hostSetup_received hf hs hd hans hlen, hin, hout, ?_⟩
    rw [receiveSetup_eq hf hfit]
    refine ⟨?_, ?_, rfl, fun a ha => ?_⟩
    · simp [hw_modHw_ne _ _ ctlIn_ne_ctlOut.symm]
    · simp [hw_modHw_ne _ _ ctlIn_ne_ctlOut]
    · obtain ⟨h1, h2⟩ : a ≠ ctlOut ∧ a ≠ ctlIn := by simpa using ha
      simp [hw_modHw_ne _ _ h1, hw_modHw_ne _ _ h2]
  · exact h.imp_right (.imp_right (by simp [setupUnanswered]))

/-! ## HOST_OUT and HOST_IN (R172, R173, R176) -/

section Transactions

variable {s : State} {addr : BitVec 7} {ep : EpAddr}

theorem transactionRefusal_unanswered (h : addr ≠ s.periph.hwAddress ∨ s.cfg.nEp ≤ ep.num.toNat ∨ (s.hw ep).stat = .disabled) :
    transactionRefusal addr ep s = some .none :=
  if_pos (h.imp_right (.imp_left (by simp [epExists])))

section Addressed

variable (ha : addr = s.periph.hwAddress) (hn : ep.num.toNat < s.cfg.nEp)

include ha hn

theorem transactionRefusal_stall (h : (s.hw ep).stat = .stall) : transactionRefusal addr ep s = some .stall := by
  simp [transactionRefusal, epExists, ha, hn, h]

theorem transactionRefusal_nak (h : (s.hw ep).stat = .nak ∨ (s.hw ep).stat = .valid ∧ (s.hw ep).ctr = true) :
    transactionRefusal addr ep s = some .nak := by
  rcases h with h | ⟨h, hc⟩
  · simp [transactionRefusal, epExists, ha, hn, h]
  · simp [transactionRefusal, epExists, ha, hn, h, hc]

theorem transactionRefusal_moves (h : (s.hw ep).stat = .valid) (hc : (s.hw ep).ctr = false) :
    transactionRefusal addr ep s = none := by
  simp [transactionRefusal, epExists, ha, hn, h, hc]

end Addressed

variable (hf : s.fault = none)

include hf

section Out

variable (he : ep.isIn = false) (bytes : List Byte)

include he

theorem exec_hostOut_stopped (hs : s.periph.started = false) :
    exec (.hostOut addr ep bytes) s = .next { s with lastOut := .none } :=
  guardedStep_answers hf (by simp [outGuard, he, hs]) (if_pos (by simp [hs]))

variable (hd : s.ctl.devState ≠ .suspended)

include hd

/-- A refused OUT packet changes the outcome alone, whatever its length. -/
theorem exec_hostOut_refused {o : HostOutcome} (hs : s.periph.started = true) (hr : transactionRefusal addr ep s = some o) :
    exec (.hostOut addr ep bytes) s = .next { s with lastOut := o } := by
  refine guardedStep_answers hf (by simp [outGuard, isSuspended, he, hs, hd, hr]) ?_
  simp [outTransaction, hs, hr, State.answer]

theorem exec_hostOut_received (hs : s.periph.started = true) (hr : transactionRefusal addr ep s = none)
    (hlen : bytes.length ≤ (s.ep ep).mps) : exec (.hostOut addr ep bytes) s = .next (receiveOut ep bytes s) := by
  refine guardedStep_answers hf (by simp [outGuard, isSuspended, he, hs, hd, hlen]) ?_
  simp [outTransaction, hs, hr]

end Out

section In

variable (he : ep.isIn = true)

include he

theorem exec_hostIn_stopped (hs : s.periph.started = false) : exec (.hostIn addr ep) s = .next { s with lastOut := .none } :=
  guardedStep_answers hf (by simp [inGuard, he, hs]) (if_pos (by simp [hs]))

variable (hd : s.ctl.devState ≠ .suspended) (hs : s.periph.started = true)

include hd hs

theorem exec_hostIn_running : exec (.hostIn addr ep) s = .next (inTransaction addr ep s) :=
  guardedStep_running hf (by simp [inGuard, isSuspended, he, hs, hd]) _

theorem exec_hostIn_refused {o : HostOutcome} (hr : transactionRefusal addr ep s = some o) :
    exec (.hostIn addr ep) s = .next { s with lastOut := o } := by
  rw [exec_hostIn_running hf he hd hs]
  simp [inTransaction, hs, hr, State.answer]

theorem exec_hostIn_sent (hr : transactionRefusal addr ep s = none) : exec (.hostIn addr ep) s = .next (sendIn ep s) := by
  rw [exec_hostIn_running hf he hd hs]
  simp [inTransaction, hs, hr]

end In

theorem receiveOut_eq {bytes : List Byte} (hfit : inRegion ep s + bytes.length ≤ s.cfg.pmaSize) :
    receiveOut ep bytes s = ((s.modPma (fun m => memWrite m (inRegion ep s) bytes)).modHw ep
      (fun h => packetMoved (s.ep ep) h bytes.length)).answer .ack := by
  rw [receiveOut, loadRegion_eq, pmaWrite_fits hfit, andThen_running (by exact hf)]
  rfl

end Transactions

/-- Settles O19: the answers of `transactionRefusal` in their order, and the packet received where it refuses none. -/
theorem hostOutCompletes : Obligations.HostOutCompletes := by
  intro s addr ep bytes hf he
  refine ⟨fun h => ?_, fun hs hd ha hn => ⟨fun h => ?_, fun h => ?_, fun h hc hlen hfit => ?_⟩⟩
  · cases hs : s.periph.started with
    | false => exact exec_hostOut_stopped hf he bytes hs
    | true =>
      obtain ⟨hd, h⟩ := h.resolve_left (by simp [hs])
      exact exec_hostOut_refused hf he bytes hd hs (transactionRefusal_unanswered h)
  · exact exec_hostOut_refused hf he bytes hd hs (transactionRefusal_stall ha hn h)
  · exact exec_hostOut_refused hf he bytes hd hs (transactionRefusal_nak ha hn h)
  · obtain ⟨hin, hout⟩ := pma_written (s := s) (t := receiveOut ep bytes s) (off := inRegion ep s) (bytes := bytes)
      (by rw [receiveOut_eq hf hfit]; rfl) (by rw [receiveOut_eq hf hfit]; rfl)
    refine ⟨_, exec_hostOut_received hf he bytes hd hs (transactionRefusal_moves ha hn h hc) hlen, hin, hout, ?_⟩
    rw [receiveOut_eq hf hfit]
    refine ⟨by simp [packetMoved], rfl, fun a ha => ?_⟩
    simp [hw_modHw_ne _ _ (show a ≠ ep by simpa using ha)]

/-- Settles O20: the answers of `transactionRefusal` in their order, and the packet sent where it refuses none. -/
theorem hostInCompletes : Obligations.HostInCompletes := by
  intro s addr ep hf he
  refine ⟨fun h => ?_, fun hs hd ha hn => ⟨fun h => ?_, fun h => ?_, fun h hc hfit => ?_⟩⟩
  · cases hs : s.periph.started with
    | false => exact exec_hostIn_stopped hf he hs
    | true =>
      obtain ⟨hd, h⟩ := h.resolve_left (by simp [hs])
      exact exec_hostIn_refused hf he hd hs (transactionRefusal_unanswered h)
  · exact exec_hostIn_refused hf he hd hs (transactionRefusal_stall ha hn h)
  · exact exec_hostIn_refused hf he hd hs (transactionRefusal_nak ha hn h)
  · refine ⟨_, exec_hostIn_sent hf he hd hs (transactionRefusal_moves ha hn h hc), ?_⟩
    simp only [sendIn, loadRegion_eq]
    rw [if_pos hfit]
    refine ⟨rfl, by simp [packetMoved], rfl, fun a ha => ?_⟩
    simp [hw_modHw_ne _ _ (show a ≠ ep by simpa using ha)]

/-! ## The completion of a packet (R163, R164) -/

section Completions

variable {s : State} {ep : EpAddr} (hp : PacketPending ep s)

include hp

theorem exec_evCtr_in (he : ep.isIn = true) : exec (.evCtr ep) s = .next (inCompletion ep s) := by
  have hne : ¬ (ep = ctlOut ∧ (s.hw ctlOut).setup = true) := by
    rintro ⟨rfl, -⟩
    exact absurd he (by decide)
  refine guardedStep_answers hp.1 (eventGuard_pending hp) ?_
  rw [ctrService, if_neg hne, if_pos he]

theorem exec_evCtr_out (he : ep.isIn = false) : exec (.evCtr ep) s = .next (outCompletion ep s) := by
  obtain ⟨hf, -, -, -, hset⟩ := id hp
  have hne : ¬ (ep = ctlOut ∧ (s.hw ctlOut).setup = true) := fun ⟨h, h'⟩ => by simp [hset h] at h'
  refine guardedStep_answers hf (eventGuard_pending hp) ?_
  rw [ctrService, if_neg hne, if_neg (by simp [he])]

end Completions

/-- Consuming a completion clears `ctr` and nothing else. -/
theorem clearCtr_leaves (ep : EpAddr) (s : State) : (clearCtr ep s).hw ep = { s.hw ep with ctr := false }
    ∧ (clearCtr ep s).ep ep = s.ep ep ∧ OnlyEps [ep] s (clearCtr ep s) :=
  ⟨hw_modHw_same .., rfl, rfl, otherEpsKept_modHw _ _ _, bytesKept_of_frame rfl⟩

theorem inCompletion_inactive {ep : EpAddr} {s : State} (h : (s.ep ep).active = false) : inCompletion ep s = clearCtr ep s :=
  if_pos (by simp [clearCtr, h])

theorem outCompletion_inactive {ep : EpAddr} {s : State} (h : (s.ep ep).active = false) : outCompletion ep s = clearCtr ep s :=
  if_pos (by simp [clearCtr, h])

/-- An IN packet has been counted, its transfer goes on (R163). -/
def inAdvanced (ep : EpAddr) (s : State) : State := countBytes ep (s.ep ep).inflight (clearCtr ep s)

theorem inCompletion_loads {ep : EpAddr} {s : State} (h : (s.ep ep).active = true)
    (hlt : (s.ep ep).inflight < (s.ep ep).remaining) : inCompletion ep s = loadIn ep (inAdvanced ep s) := by
  have hact : ¬ (!((clearCtr ep s).ep ep).active) = true := by simp [clearCtr, h]
  have hleft : 0 < ((inAdvanced ep s).ep ep).remaining := by
    simp [inAdvanced, countBytes, clearCtr, hlt]
  exact (if_neg hact).trans (if_pos hleft)

/-- load_in_packet into a region within packet memory: what it leaves in the endpoint and in packet memory (R161). -/
theorem loadIn_leaves {ep : EpAddr} {s : State} (hf : s.fault = none) (hr : RegionFits ep s) :
    (loadIn ep s).ep ep = { s.ep ep with inflight := nextSize ep s }
      ∧ (loadIn ep s).hw ep = { s.hw ep with count := nextSize ep s, stat := armedStat ep s }
      ∧ (∀ i, i < nextSize ep s → pmaByte (loadIn ep s) (inRegion ep s + i) = bufByte s (s.ep ep).buf ((s.ep ep).transferred + i))
      ∧ PmaKeptOutside (inRegion ep s) (nextSize ep s) s (loadIn ep s)
      ∧ loadIn ep s = { s with eps := (loadIn ep s).eps, hws := (loadIn ep s).hws, pma := (loadIn ep s).pma }
      ∧ OtherEpsKept [ep] s (loadIn ep s) := by
  obtain ⟨hin, hout⟩ := pma_written (s := s) (t := loadIn ep s) (off := inRegion ep s) (bytes := nextPacket ep s)
    (by rw [loadIn_eq hf hr]; rfl) (by rw [loadIn_eq hf hr]; rfl)
  rw [bufRead_length] at hout
  refine ⟨?_, ?_, fun i hi => ?_, hout, ?_⟩
  · simp [loadIn_eq hf hr]
  · simp [loadIn_eq hf hr]
  · rw [hin i (by rwa [bufRead_length])]
    simp [nextPacket, bufRead]
  · rw [loadIn_eq hf hr]
    refine ⟨rfl, fun a ha => ?_⟩
    have hne : a ≠ ep := by simpa using ha
    simp [ep_modEp_ne _ _ hne, hw_modHw_ne _ _ hne]

/-- The endpoint once the packet is counted: the counters have moved, the completion is consumed, the region and the handshake are those
of before. -/
theorem inAdvanced_leaves (ep : EpAddr) (s : State) :
    (inAdvanced ep s).ep ep = { s.ep ep with transferred := (s.ep ep).transferred + (s.ep ep).inflight,
                                             remaining := (s.ep ep).remaining - (s.ep ep).inflight }
      ∧ (inAdvanced ep s).hw ep = { s.hw ep with ctr := false }
      ∧ inRegion ep (inAdvanced ep s) = inRegion ep s ∧ armedStat ep (inAdvanced ep s) = armedStat ep s
      ∧ OtherEpsKept [ep] s (inAdvanced ep s) := by
  refine ⟨?_, ?_, ?_, ?_, fun a ha => ?_⟩
  · simp [inAdvanced, countBytes, clearCtr]
  · simp [inAdvanced, countBytes, clearCtr]
  · simp [inRegion, inAdvanced, countBytes, clearCtr]
  · simp [armedStat, inAdvanced, countBytes, clearCtr]
  · have hne : a ≠ ep := by simpa using ha
    simp [inAdvanced, countBytes, clearCtr, ep_modEp_ne _ _ hne, hw_modHw_ne _ _ hne]

/-- Settles O26: the packet in flight is counted, then the next one is loaded. -/
theorem inCompletionLoadsNextPacket : Obligations.InCompletionLoadsNextPacket := by
  intro s ep hp he
  refine ⟨fun ha hlt hr => ?_, fun ha => ?_⟩
  · obtain ⟨uep, uhw, ureg, uarm, uothers⟩ := inAdvanced_leaves ep s
    have hr' : RegionFits ep (inAdvanced ep s) := by
      rw [RegionFits, ureg, uep]
      exact hr
    obtain ⟨tep, thw, hin, hout, hframe, hothers⟩ := loadIn_leaves (s := inAdvanced ep s) hp.1 hr'
    simp only [ureg, uarm, uep, uhw, nextSize] at tep thw hin hout
    rw [exec_evCtr_in hp he, inCompletion_loads ha hlt]
    exact ⟨_, rfl, ⟨tep, thw, hin, hout⟩, hframe, otherEpsKept_trans uothers hothers⟩
  · rw [exec_evCtr_in hp he, inCompletion_inactive ha]
    exact ⟨_, rfl, clearCtr_leaves ep s⟩

/-- An OUT packet has been taken: `c` of its bytes are stored where the transfer stands, and the counters have moved (R164). -/
def outStored (ep : EpAddr) (c : Nat) (s : State) : State :=
  countBytes ep c (bufWrite (s.ep ep).buf (s.ep ep).transferred (pmaRead s (outRegion ep s) c) (clearCtr ep s))

theorem unloadRegion_eq (ep : EpAddr) (s : State) : unloadRegion (s.ep ep) (s.hw ep) = outRegion ep s := by
  unfold unloadRegion outRegion
  cases (s.ep ep).dbuf <;> cases (s.hw ep).bufSel <;> rfl

/-- The packet lies in packet memory and its buffer has room: the bytes are in the buffer, no other byte is written, the counters have
moved. -/
theorem outStored_leaves {ep : EpAddr} {c : Nat} {s : State}
    (hw : writeFits s.cfg (s.ep ep).buf ((s.ep ep).transferred + c) = true) :
    (outStored ep c s).ep ep = { s.ep ep with transferred := (s.ep ep).transferred + c, remaining := (s.ep ep).remaining - c }
      ∧ (outStored ep c s).hw ep = { s.hw ep with ctr := false }
      ∧ (∀ j, j < c → bufByte (outStored ep c s) (s.ep ep).buf ((s.ep ep).transferred + j) = pmaByte s (outRegion ep s + j))
      ∧ BuffersKeptOutside (s.ep ep).buf (s.ep ep).transferred c s (outStored ep c s)
      ∧ outStored ep c s = { s with
          eps := (outStored ep c s).eps, hws := (outStored ep c s).hws, app := (outStored ep c s).app,
          ctl := { s.ctl with scratch := (outStored ep c s).ctl.scratch },
          scsi := { s.scsi with work := (outStored ep c s).scsi.work },
          bot := { s.bot with cbwBuf := (outStored ep c s).bot.cbwBuf, cswBuf := (outStored ep c s).bot.cswBuf } }
      ∧ OtherEpsKept [ep] s (outStored ep c s) := by
  have hlen : (pmaRead s (outRegion ep s) c).length = c := bytesOf_length ..
  obtain ⟨hin, hout, hframe⟩ := bufWrite_spec (s.ep ep).buf (s.ep ep).transferred (pmaRead s (outRegion ep s) c) (clearCtr ep s)
    (by rwa [hlen])
  rw [hlen] at hout
  generalize hu : bufWrite (s.ep ep).buf (s.ep ep).transferred (pmaRead s (outRegion ep s) c) (clearCtr ep s) = u
    at hin hout hframe
  have uep (a : EpAddr) : u.ep a = s.ep a := by rw [hframe]; rfl
  have uhw (a : EpAddr) : u.hw a = (clearCtr ep s).hw a := by rw [hframe]; rfl
  have key : outStored ep c s = countBytes ep c u := by rw [← hu]; rfl
  rw [key]
  refine ⟨?_, ?_, fun j hj => ?_, hout, ?_, fun a ha => ?_⟩
  · simp [countBytes, uep]
  · simp [countBytes, uhw, clearCtr]
  · refine (hin j (by rwa [hlen])).trans ?_
    simp [pmaRead, bytesOf, pmaByte]
  · have uhws : u.hws = (clearCtr ep s).hws := by rw [hframe]
    rw [← uhws] at hframe
    exact congrArg (fun q : State => { q with eps := (countBytes ep c u).eps }) hframe
  · have hne : a ≠ ep := by simpa using ha
    simp [countBytes, ep_modEp_ne _ _ hne, uep, uhw, clearCtr, hw_modHw_ne _ _ hne]

section OutCompletion

variable {s : State} {ep : EpAddr} (hf : s.fault = none)

include hf

theorem outStored_running {c : Nat} (hw : writeFits s.cfg (s.ep ep).buf ((s.ep ep).transferred + c) = true) :
    (outStored ep c s).fault = none := by
  obtain ⟨-, -, -, -, hframe, -⟩ := outStored_leaves hw
  rw [hframe]
  exact hf

/-- The packet of an OUT completion is stored where its region is in packet memory and its buffer has room. -/
theorem deliverOut_stores {c : Nat} (hreg : outRegion ep s + c ≤ s.cfg.pmaSize)
    (hw : writeFits s.cfg (s.ep ep).buf ((s.ep ep).transferred + c) = true) :
    deliverOut ep c (clearCtr ep s) = outStored ep c s := by
  have hregion : outRegion ep (clearCtr ep s) = outRegion ep s := by simp [outRegion, clearCtr]
  simp only [deliverOut, unloadRegion_eq, hregion]
  exact (if_pos hreg).trans (andThen_running (s := bufWrite ..) (outStored_running hf hw) _)

/-- An OUT completion of an active transfer: the packet is stored, then the transfer ends or the endpoint is armed again (R164). -/
theorem outCompletion_active (ha : (s.ep ep).active = true) (hreg : outRegion ep s + outTaken ep s ≤ s.cfg.pmaSize)
    (hw : writeFits s.cfg (s.ep ep).buf ((s.ep ep).transferred + outTaken ep s) = true) :
    outCompletion ep s =
      if (s.ep ep).remaining ≤ (s.hw ep).count ∨ (s.hw ep).count < (s.ep ep).mps
      then transferDone ep (outStored ep (outTaken ep s) s) else arm ep (outStored ep (outTaken ep s) s) := by
  obtain ⟨hep, -⟩ := outStored_leaves hw
  have hcount : ((clearCtr ep s).hw ep).count = (s.hw ep).count := by simp [clearCtr]
  have hend : (s.ep ep).remaining - outTaken ep s = 0 ↔ (s.ep ep).remaining ≤ (s.hw ep).count := by
    unfold outTaken
    omega
  simp only [outCompletion, hcount]
  rw [if_neg (by simp [clearCtr, ha])]
  refine (congrArg (fun t => State.andThen t _) (deliverOut_stores hf hreg hw)).trans ?_
  rw [andThen_running (outStored_running hf hw)]
  simp only [hep, hend]

end OutCompletion

/-- Settles O27: the packet is stored and, being neither the last nor short, the endpoint is armed. -/
theorem outCompletionStoresPacket : Obligations.OutCompletionStoresPacket := by
  intro s ep hp he
  refine ⟨fun ha hlt hfull hreg hw => ?_, fun ha => ?_⟩
  · have htaken : outTaken ep s = (s.hw ep).count := Nat.min_eq_left hlt.le
    obtain ⟨uep, uhw, hin, hout, hframe, uothers⟩ := outStored_leaves hw
    refine ⟨arm ep (outStored ep (s.hw ep).count s), ?_, ?_⟩
    · rw [exec_evCtr_out hp he, outCompletion_active hp.1 ha (by rwa [htaken]) (by rwa [htaken]), if_neg (by omega), htaken]
    · have harm : armedStat ep (outStored ep (s.hw ep).count s) = armedStat ep s := by simp [armedStat, uep, uhw]
      rw [arm_eq, harm]
      refine ⟨uep, by simp [uhw], hin, hout, fun a => ?_, fun a => ?_, ?_, otherEpsKept_trans uothers (otherEpsKept_modHw _ _ _)⟩
      · exact (congrArg (pmaByte · a) hframe :)
      · exact (congrArg (storageByte · a) hframe :)
      · exact congrArg (fun q : State => q.modHw ep (fun h => { h with stat := armedStat ep s })) hframe
  · rw [exec_evCtr_out hp he, outCompletion_inactive ha]
    exact ⟨_, rfl, clearCtr_leaves ep s⟩

theorem decodeCbw_cases (bs : List Byte) :
    (∃ tag len flags n cdb, decodeCbw bs = .cbw tag len flags n cdb) ∨ decodeCbw bs = .cbwMalformed bs := by
  unfold decodeCbw
  split
  · exact .inl ⟨_, _, _, _, _, rfl⟩
  · exact .inr rfl

/-- The meaning of the row the received bytes decode to is what the sequencer does with them (42 R266). -/
theorem exec_decodeCbw {s : State} (hf : s.fault = none) (n : Nat) :
    exec (decodeCbw (bufRead s .cbw 0 n)) s = .next (cbwReceived n s) := by
  unfold cbwReceived
  rcases decodeCbw_cases (bufRead s .cbw 0 n) with ⟨tag, len, flags, k, cdb, h⟩ | h
  · rw [h]
    exact agentStep_running hf _
  · rw [h]
    exact agentStep_running hf _

/-- The last packet of an OUT transfer has been stored and counted, the transfer is over (R164). -/
def outFinished (ep : EpAddr) (s : State) : State :=
  (outStored ep (outTaken ep s) s).modEp ep (fun e => { e with active := false })

/-- Settles O52: the packet is stored in `cbw_buf` and counted, and the callback is BOT_OUT in BOT_IDLE. -/
theorem cbwTransferRunsTheCbw : Obligations.CbwTransferRunsTheCbw := by
  intro s _ hlast hidle hbuf hcb
  generalize s.cfg.botOutEp = ep at *
  obtain ⟨hp, he, ha, hend, hreg, hw⟩ := hlast
  obtain ⟨uep, uhw, hin, hout, -, uothers⟩ := outStored_leaves hw
  have hframe : outFinished ep s = { s with
      eps := (outFinished ep s).eps, hws := (outFinished ep s).hws,
      bot := { s.bot with cbwBuf := (outFinished ep s).bot.cbwBuf } } := by
    simp only [outFinished, outStored, hbuf, bufWrite_cbw]
    rfl
  have hrunning : (outFinished ep s).fault = none := by rw [hframe]; exact hp.1
  have hstate : (outFinished ep s).bot.state = .idle := by rw [hframe]; exact hidle
  have hdone : transferDone ep (outStored ep (outTaken ep s) s)
      = cbwReceived ((s.ep ep).transferred + outTaken ep s) (outFinished ep s) := by
    rw [transferDone, uep, hcb]
    simp only [callback, botOutDone]
    rw [show (State.modEp _ ep _).bot.state = _ from hstate]
    rfl
  rw [hbuf] at hin hout
  refine ⟨outFinished ep s, ?_, hin, hout, ?_, uhw, hframe, ?_⟩
  · rw [exec_decodeCbw hrunning, exec_evCtr_out hp he, outCompletion_active hp.1 ha hreg hw, if_pos hend, hdone]
  · simp [outFinished, uep, outDone]
  · intro a ha
    exact ⟨(ep_modEp_ne _ _ (by simpa using ha)).trans (uothers a ha).1, (uothers a ha).2⟩

end Sys2Proof.Proofs
end

section
/-!
PROOFS of the control-transfer family (41_control_transfer): the control primitives, SETUP servicing, the ends of the control
pipe's transfers, the requests to the device and to an endpoint, and the requests forwarded to a class.
-/

namespace Sys2Proof.Proofs

open Sys2Proof.Machine

/-! ## Frames -/

/-- Where the endpoint tables alone are written, no byte changes. -/
theorem onlyEps_of_frame {l : List EpAddr} {s t : State} (h : t = { s with eps := t.eps, hws := t.hws })
    (ho : OtherEpsKept l s t) : OnlyEps l s t := ⟨h, ho, bytesKept_of_frame h⟩

/-! ## Suspend and resume (R243, R244) -/

/-- Settles O22: each service writes the two fields its rule names, in one of two cases of the device state. -/
theorem suspendAndResumeServiced : Obligations.SuspendAndResumeServiced := by
  intro s hf hr
  refine ⟨fun hp => ?_, fun hp => ?_⟩
  · exact guardedStep_answers hf (by simp [eventGuard, hp, hr]) rfl
  · exact guardedStep_answers hf (by simp [eventGuard, hp, hr]) rfl

/-! ## CTL_SEND and CTL_RECEIVE (R206, R207) -/

/-- Settles O15: `ctlSend_spec` on the session as it is. -/
theorem ctlSendCompletes : Obligations.CtlSendCompletes := by
  intro s buf len hready hsetup hfits
  obtain ⟨hstatus, hdata, hscratch⟩ := ctlSend_spec s.ctl hready hsetup hfits
  exact ⟨_, agentStep_running hready.1.1 _, hscratch, hstatus, hdata⟩

/-- CTL_RECEIVE of a data stage posts a read on control OUT (R207). -/
theorem ctlReceive_posts {s : State} {buf : BufRef} {len : Nat} (hopen : ControlOpen s) (hsetup : s.ctl.ctrlState = .setup)
    (hfits : writeFits s.cfg buf (min len s.ctl.ctrlLen) = true) (hn : 0 < min len s.ctl.ctrlLen) :
    ReadPosted ctlOut buf (min len s.ctl.ctrlLen) s (ctlReceive buf len s)
      ∧ (ctlReceive buf len s).ctl = { s.ctl with ctrlState := .dataOut }
      ∧ OnlyEps [ctlOut] { s with ctl := (ctlReceive buf len s).ctl } (ctlReceive buf len s) := by
  have hrun : ctlReceive buf len s
      = epRead ctlOut buf (min len s.ctl.ctrlLen) (s.withCtl { s.ctl with ctrlState := .dataOut }) := by
    rw [ctlReceive, if_neg (not_not.mpr hsetup), if_neg (by omega)]
    rfl
  obtain ⟨hposted, -, honly⟩ := epRead_spec (s := s.withCtl { s.ctl with ctrlState := .dataOut }) (ctlOut_usable hopen) rfl hfits
  rw [hrun]
  have hctl : (epRead ctlOut buf (min len s.ctl.ctrlLen) (s.withCtl { s.ctl with ctrlState := .dataOut })).ctl
      = { s.ctl with ctrlState := .dataOut } := by rw [honly.1]; rfl
  refine ⟨hposted, hctl, ?_⟩
  rw [hctl]
  exact honly

/-- Settles O16: nothing to receive is the status, else the read of `ctlReceive_posts`. -/
theorem ctlReceiveCompletes : Obligations.CtlReceiveCompletes := by
  intro s buf len hready hsetup hfits
  refine ⟨_, agentStep_running hready.1.1 _, fun hn => ?_, ctlReceive_posts hready.1 hsetup hfits⟩
  have hstatus : ctlReceive buf len.toNat s = ctlStatus s := by
    rw [ctlReceive, if_neg (not_not.mpr hsetup), if_pos hn]
  rw [hstatus]
  exact ctlStatus_spec s.ctl hready

/-! ## SETUP servicing (R202-R204) -/

/-- The state a SETUP is dispatched in: its completion consumed, the control pipe cleared (R202, R204). -/
def setupTaken (s : State) : State := setupClear (s.modHw ctlOut (fun h => { h with ctr := false, setup := false }))

/-- setup_clear leaves both directions not stalled, not active and NAK, and no ZLP owed (R204). -/
theorem setupTaken_leaves (s : State) :
    (setupTaken s).ctl = { s.ctl with zlpPending := false }
      ∧ (setupTaken s).ep ctlOut = { s.ep ctlOut with stalled := false, active := false }
      ∧ (setupTaken s).ep ctlIn = { s.ep ctlIn with stalled := false, active := false }
      ∧ (setupTaken s).hw ctlOut = { s.hw ctlOut with ctr := false, setup := false, stat := .nak }
      ∧ (setupTaken s).hw ctlIn = { s.hw ctlIn with ctr := false, stat := .nak }
      ∧ OnlyEps [ctlIn, ctlOut] { s with ctl := (setupTaken s).ctl } (setupTaken s) := by
  have hne := ctlIn_ne_ctlOut
  have hne' := hne.symm
  have hframe : setupTaken s = { { s with ctl := (setupTaken s).ctl } with
      eps := (setupTaken s).eps, hws := (setupTaken s).hws } := by
    simp only [setupTaken, setupClear, abandon, State.modHw, State.modEp, State.modCtl]
  refine ⟨by simp [setupTaken, setupClear, abandon], ?_, ?_, ?_, ?_, hframe, fun a ha => ?_, bytesKept_of_frame hframe⟩
  · simp [setupTaken, setupClear, abandon, ep_modEp_ne _ _ hne']
  · simp [setupTaken, setupClear, abandon, ep_modEp_ne _ _ hne]
  · simp [setupTaken, setupClear, abandon, hw_modHw_ne _ _ hne']
  · simp [setupTaken, setupClear, abandon, hw_modHw_ne _ _ hne]
  · have ha' : a ≠ ctlIn ∧ a ≠ ctlOut := by simpa using ha
    simp [setupTaken, setupClear, abandon, ep_modEp_ne _ _ ha'.1, ep_modEp_ne _ _ ha'.2, hw_modHw_ne _ _ ha'.1,
      hw_modHw_ne _ _ ha'.2]
    exact ⟨rfl, rfl⟩

/-- A SETUP row's meaning is to serve its request. -/
theorem exec_setupRow {i : Instr} (h : (encode i).fmt = .setup) (s : State) : exec i s = agentStep s (serveRequest i) := by
  cases i with
  | getStatusDevice | clearFeatureDevice | setFeatureDevice | setAddress | getDescriptorDevice | getDescriptorConfiguration
  | getDescriptorString | getDescriptorDeviceQualifier | getDescriptorOtherSpeedConfiguration | getDescriptorOtherType
  | setDescriptor | getConfiguration | setConfiguration | getInterfaceDevice | setInterfaceDevice | synchFrameDevice
  | deviceStandardReserved | deviceClassVendorReserved | getStatusEndpoint | clearFeatureEndpoint | setFeatureEndpoint
  | synchFrameEndpoint | endpointStandardOther | endpointClassVendorReserved | setupInterfaceForward
  | setupOtherRecipient => rfl
  | _ => exact nomatch h

/-- EV_CTR of a pending SETUP takes its bytes in the state `setupTaken` (R202). -/
theorem exec_evCtr_setup {s : State} (hf : s.fault = none) (hr : s.periph.pendReset = false) (hn : 0 < s.cfg.nEp)
    (hc : (s.hw ctlOut).ctr = true) (hs : (s.hw ctlOut).setup = true) :
    exec (.evCtr ctlOut) s = .next (takeSetup (s.hw ctlOut).count (setupTaken s)) := by
  refine guardedStep_answers hf ?_ ?_
  · have hexists : epExists s.cfg ctlOut = true := decide_eq_true hn
    simp [eventGuard, ctrPending, hexists, hc, hr]
  · rw [ctrService, if_pos ⟨rfl, hs⟩]
    rfl

/-- Settles O24: eight bytes decode to a SETUP row, and its meaning in the state `setupTaken` is to serve it. -/
theorem setupServiceRunsTheRequest : Obligations.SetupServiceRunsTheRequest := by
  intro s hf hr hn hc hs hcount hfit
  have hexec := exec_evCtr_setup hf hr hn hc hs
  have hleaves := setupTaken_leaves s
  generalize setupTaken s = u at hexec hleaves
  obtain ⟨-, hout, -, -, -, hframe, -, hpma, -⟩ := id hleaves
  refine ⟨u, setupPacket u, ?_, ?_, hleaves⟩
  · have hrow : (encode (decodeRequest (setupPacket u))).fmt = .setup := by
      rw [(decodeRequest_reads _).2]
    have hfit' : ¬ u.cfg.pmaSize < (u.ep ctlOut).off0 + 8 := by
      rw [hout, hframe]
      exact not_lt.mpr hfit
    rw [hexec, exec_setupRow hrow, agentStep_running (by rw [hframe]; exact hf), hcount, takeSetup, if_neg (by simp),
      if_neg hfit']
  · simp only [setupPacket, hpma, hout]
    rfl

/-- Settles O25: the reject of R211 in the state `setupTaken`. -/
theorem setupOfAnotherLengthIsRejected : Obligations.SetupOfAnotherLengthIsRejected := by
  intro s ⟨hf, hn, hopenOut, hopenIn⟩ hr hc hs hcount
  have hexec := exec_evCtr_setup hf hr hn hc hs
  have hleaves := setupTaken_leaves s
  generalize setupTaken s = u at hexec hleaves
  obtain ⟨uctl, uout, uin, uhwOut, uhwIn, uframe, uothers, -⟩ := hleaves
  have hopen : ControlOpen u := by
    refine ⟨by rw [uframe]; exact hf, by rw [uframe]; exact hn, ?_, ?_⟩
    · rw [uout]; exact hopenOut
    · rw [uin]; exact hopenIn
  obtain ⟨⟨rframe, rothers, -⟩, ⟨rin, rhwIn⟩, ⟨rout, rhwOut⟩, rctl⟩ := reject_spec u.ctl hopen
  rw [takeSetup, if_pos hcount] at hexec
  rw [uin] at rin
  rw [uout] at rout
  rw [uhwIn] at rhwIn
  rw [uhwOut] at rhwOut
  refine ⟨reject u, hexec, ?_, rout, rin, rhwOut, rhwIn, onlyEps_of_frame ?_ (otherEpsKept_trans uothers rothers)⟩
  · refine rctl.trans ?_
    rw [uctl]
  · exact rframe.trans (congrArg (fun q : State => { q with
      ctl := (reject u).ctl, eps := (reject u).eps, hws := (reject u).hws }) uframe)

/-! ## Request rows: the request is recorded, then served (R202, R205) -/

/-- A SETUP row whose meaning is `f` on the recorded request runs `f` on the session its encoding gives. -/
theorem exec_recording {x : Instr} {d : Bool} {ty : BitVec 2} {p : BitVec 5} {r : Byte} {v i l : BitVec 16}
    {f : State → State} (h : encode x = setupWord d ty p r v i l)
    (hx : ∀ s, exec x s = agentStep s (fun s => f (beginRequest (setupBytes d ty p r v i l) s)))
    {s : State} (hf : s.fault = none) : exec x s = .next (f (s.withCtl (recorded x s.ctl))) := by
  rw [hx, agentStep_running hf, beginRequest_setup h]

/-- A SETUP row whose meaning is `reject` is rejected (R211). -/
theorem rejecting_row {x : Instr} {d : Bool} {ty : BitVec 2} {p : BitVec 5} {r : Byte} {v i l : BitVec 16}
    (h : encode x = setupWord d ty p r v i l)
    (hx : ∀ s, exec x s = agentStep s (fun s => reject (beginRequest (setupBytes d ty p r v i l) s)))
    {s : State} (hopen : ControlOpen s) : ∃ t, exec x s = .next t ∧ Rejected (recorded x s.ctl) s t :=
  ⟨_, exec_recording h hx hopen.1, reject_spec _ hopen⟩

theorem endpointLegal_iff (e : EpAddr) (s : State) : endpointLegal s e = true ↔ EndpointLegal e s := by
  unfold endpointLegal EndpointLegal
  cases s.ctl.devState <;> simp [epExists]

theorem forLegalEp_legal {s : State} {i : BitVec 16} {f : EpAddr → State → State}
    (h : EndpointLegal (requestEp i) s) : forLegalEp i f s = f (requestEp i) s :=
  if_pos ((endpointLegal_iff _ _).mpr h)

theorem forLegalEp_rejects {s : State} {i : BitVec 16} {f : EpAddr → State → State}
    (h : ¬ EndpointLegal (requestEp i) s ∨ f (requestEp i) s = reject s) : forLegalEp i f s = reject s := by
  by_cases hlegal : EndpointLegal (requestEp i) s
  · rw [forLegalEp_legal hlegal]
    exact h.resolve_left (not_not.mpr hlegal)
  · exact if_neg (mt (endpointLegal_iff _ _).mp hlegal)

section EndpointRequests

variable {s : State} {dir : Bool} {x : Instr} {r : Byte} {v i l : BitVec 16} {f : EpAddr → State → State}
  (h : encode x = setupWord dir 0 2 r v i l)
  (hx : ∀ s, exec x s = agentStep s (fun s => forLegalEp i f (beginRequest (endpointReq dir r v i l) s)))

include h hx

/-- An endpoint row is rejected where its endpoint is not legal, and where its meaning rejects. -/
theorem endpointRow_rejected (hopen : ControlOpen s)
    (hbad : ¬ EndpointLegal (requestEp i) s ∨ ∀ t, f (requestEp i) t = reject t) :
    ∃ t, exec x s = .next t ∧ Rejected (recorded x s.ctl) s t := by
  have hreject : forLegalEp i f (s.withCtl (recorded x s.ctl)) = reject (s.withCtl (recorded x s.ctl)) :=
    forLegalEp_rejects (hbad.imp id fun h => h _)
  refine ⟨_, exec_recording h hx hopen.1, ?_⟩
  rw [hreject]
  exact reject_spec _ hopen

/-- An endpoint row on a legal endpoint runs its meaning on the recorded request. -/
theorem endpointRow_runs (hf : s.fault = none) (hlegal : EndpointLegal (requestEp i) s) :
    exec x s = .next (f (requestEp i) (s.withCtl (recorded x s.ctl))) := by
  rw [exec_recording h hx hf, forLegalEp_legal (by exact hlegal)]

end EndpointRequests

/-- Settles O32: each of the thirteen rows is `reject` on the recorded request, whether its endpoint is legal or not. -/
theorem rejectedRequestsStall : Obligations.RejectedRequestsStall := by
  intro s i hopen hi
  cases i with
  | getDescriptorDeviceQualifier | getDescriptorOtherSpeedConfiguration | getDescriptorOtherType | setDescriptor
  | getInterfaceDevice | setInterfaceDevice | synchFrameDevice | deviceStandardReserved | deviceClassVendorReserved
  | endpointClassVendorReserved | setupOtherRecipient => exact rejecting_row rfl (fun _ => rfl) hopen
  | synchFrameEndpoint | endpointStandardOther =>
    exact endpointRow_rejected (f := fun _ => reject) rfl (fun _ => rfl) hopen (.inr fun _ => rfl)
  | _ => exact absurd hi Bool.false_ne_true

/-! ## Features and the address (R221-R223) -/

theorem deviceFeature_eq (on : Bool) (v : BitVec 16) (c : Control) (s : State) : deviceFeature on v (s.withCtl c)
    = ctlStatus (s.withCtl { c with remoteWakeup := if v = 1 then on else c.remoteWakeup }) := by
  unfold deviceFeature
  split <;> rfl

/-- Settles O33: the flag is written or kept, then the status is sent. -/
theorem deviceFeaturesComplete : Obligations.DeviceFeaturesComplete := by
  intro s dir v i l hready
  refine ⟨⟨_, exec_recording (f := deviceFeature false v) rfl (fun _ => rfl) hready.1.1, ?_⟩,
    ⟨_, exec_recording (f := deviceFeature true v) rfl (fun _ => rfl) hready.1.1, ?_⟩⟩
  · rw [deviceFeature_eq]
    exact ctlStatus_spec _ hready
  · rw [deviceFeature_eq]
    exact ctlStatus_spec _ hready

theorem onlyControl_periph {s t : State} (h : OnlyControl s t) : t.periph = s.periph := by rw [h.1]

/-- Settles O34: rejected on the four conditions of R223, else the address is stored and the status sent. -/
theorem setAddressCompletes : Obligations.SetAddressCompletes := by
  intro s dir v i l hready
  refine ⟨_, exec_recording (f := deviceSetAddress v i l) rfl (fun _ => rfl) hready.1.1, fun hbad => ?_, fun hi hl hv hd => ?_⟩
  · rw [deviceSetAddress, if_pos (by exact hbad)]
    exact reject_spec _ hready.1
  · have hgood : ¬ (i ≠ 0 ∨ l ≠ 0 ∨ 128 ≤ v.toNat ∨ s.ctl.devState = .configured) := by simp [hi, hl, hd, hv]
    have hstored := ctlStatus_spec { recorded (.setAddress dir v i l) s.ctl with
      pendingAddr := some (v.extractLsb' 0 7), devState := if v = 0 then .default else .addressed } hready
    have hrun : deviceSetAddress v i l (s.withCtl (recorded (.setAddress dir v i l) s.ctl)) = _ := if_neg hgood
    rw [hrun]
    exact ⟨hstored, congrArg Periph.hwAddress (onlyControl_periph hstored.1)⟩

/-! ## Answers from `scratch` and from the descriptors (R220, R225-R229) -/

/-- A recorded request answered from `scratch` with bytes that fit it. -/
theorem scratch_answers {s : State} {x : Instr} {full : List Byte} (hready : ControlReady s)
    (hfull : full.length ≤ ctrlBufSize s.cfg) :
    Answered .scratch full (recorded x s.ctl) s (sendScratch full (s.withCtl (recorded x s.ctl))) :=
  sendScratch_answers _ hready rfl rfl hfull

/-- Answers of at most eight bytes fit `scratch` under a well-formed configuration (00_scope R6, D73). -/
theorem short_fits {c : Config} (h : configWf c = true) {full : List Byte} (hlen : full.length ≤ 8) :
    full.length ≤ ctrlBufSize c := by
  obtain ⟨-, h8, -⟩ := configWf_control h
  exact hlen.trans (le_max_of_le_right h8)

theorem deviceStatus_bytes (c : Config) (wakeup : Bool) : le16Bytes (deviceStatus c wakeup)
    = [(if c.selfPowered = true then 1 else 0) ||| (if wakeup = true then 2 else 0), 0] := by
  unfold deviceStatus
  cases c.selfPowered <;> cases wakeup <;> rfl

/-- Settles O35: both answers are at most two bytes in `scratch`. -/
theorem deviceReportsComplete : Obligations.DeviceReportsComplete := by
  intro s dir v i l hready hwf
  refine ⟨⟨_, exec_recording (f := deviceGetStatus l) rfl (fun _ => rfl) hready.1.1, fun hl => ?_, fun hl => ?_⟩,
    ⟨_, exec_recording (f := deviceGetConfiguration) rfl (fun _ => rfl) hready.1.1, ?_⟩⟩
  · rw [deviceGetStatus, if_pos hl]
    exact reject_spec _ hready.1
  · rw [deviceGetStatus, if_neg (not_not.mpr hl), deviceStatus_bytes]
    exact scratch_answers hready (short_fits hwf (by simp))
  · exact scratch_answers (full := [s.ctl.config.extractLsb' 0 8]) hready (short_fits hwf (by simp))

/-- A buffer that holds `bs` from its first byte on is read as `bs`. -/
theorem bufRead_eq {s : State} {buf : BufRef} {bs : List Byte} (h : ∀ k (hk : k < bs.length), bufByte s buf k = bs[k]) :
    bufRead s buf 0 bs.length = bs :=
  List.ext_getElem (bufRead_length ..) fun k _ hk => by simp [bufRead, h k hk]

/-- Settles O36: a descriptor is a constant array, sent from its first byte. -/
theorem getDescriptorCompletes : Obligations.GetDescriptorCompletes := by
  intro s dir x i l hready hwf
  obtain ⟨hdevice, -⟩ := configWf_descriptors hwf
  have hread (sp : Space) (e k : Nat) (bs : List Byte) (hk : k < bs.length) : bs[k]?.getD (Config.unspecByte sp e k) = bs[k] := by
    simp [hk]
  have hfits (bs : List Byte) (n : Nat) : min bs.length n = 0 ∨ 0 + min bs.length n ≤ bs.length := by omega
  refine ⟨⟨_, exec_recording (f := ctlSend .deviceDesc 18) rfl (fun _ => rfl) hready.1.1, ?_⟩,
    ⟨_, exec_recording (f := fun t => ctlSend .configDesc t.cfg.configDesc.length t) rfl (fun _ => rfl) hready.1.1, ?_⟩⟩
  · rw [← hdevice]
    exact ctlSend_answers _ hready rfl (decide_eq_true (hfits _ _)) (bufRead_eq fun k hk => hread _ _ k _ hk) fun _ _ => rfl
  · exact ctlSend_answers _ hready rfl (decide_eq_true (hfits _ _)) (bufRead_eq fun k hk => hread _ _ k _ hk) fun _ _ => rfl

/-! ## String descriptors (R227, R240, R241) -/

theorem stringDesc_eq (text : List Byte) : stringDesc text = stringDescriptorOf text := by
  rw [stringDesc, stringDescriptorOf, List.flatMap_def]

theorem stringOf_eq_lookup (strings : List (Byte × List Byte)) (x : Byte) : stringOf strings x = strings.lookup x := by
  induction strings with
  | nil => rfl
  | cons e rest ih =>
    obtain ⟨k, text⟩ := e
    by_cases hk : k = x
    · simp [stringOf, hk]
    · have hk' : (x == k) = false := by simpa using Ne.symm hk
      simp [stringOf, hk, List.lookup, hk', ih]

/-- A text of STRINGS has a descriptor that fits `scratch` (00_scope R6). -/
theorem stringDesc_fits {c : Config} (h : configWf c = true) {x : Byte} {text : List Byte} (hx : c.strings.lookup x = some text) :
    (stringDesc text).length ≤ ctrlBufSize c := by
  obtain ⟨-, hstrings, -⟩ := configWf_strings h
  obtain ⟨l₁, l₂, hmem, -⟩ := List.lookup_eq_some_iff.mp hx
  exact hstrings (x, text) (by simp [hmem])

/-- An index that is neither 0 nor the serial number's has the descriptor of its text in STRINGS (R227). -/
theorem stringResponse_text {c : Config} {x : Byte} (h0 : x ≠ 0) (hs : x ≠ c.serialIndex) :
    stringResponse c x = (c.strings.lookup x).map stringDesc := by
  rw [stringResponse, if_neg h0, if_neg hs, stringOf_eq_lookup]

/-- A string index with a descriptor is answered with it. -/
theorem deviceGetString_answers {s : State} {r : Instr} {x : Byte} {d : List Byte} (hready : ControlReady s)
    (hd : stringResponse s.cfg x = some d) (hfits : d.length ≤ ctrlBufSize s.cfg) :
    Answered .scratch d (recorded r s.ctl) s (deviceGetString x (s.withCtl (recorded r s.ctl))) := by
  have hsent : deviceGetString x (s.withCtl (recorded r s.ctl)) = sendScratch d (s.withCtl (recorded r s.ctl)) := by
    simp only [deviceGetString, modCtl_cfg, hd]
  rw [hsent]
  exact scratch_answers hready hfits

/-- Settles O37: the four cases of `stringResponse`. -/
theorem getDescriptorStringCompletes : Obligations.GetDescriptorStringCompletes := by
  intro s dir x i l hready hwf
  obtain ⟨hserial, -, hindex⟩ := configWf_strings hwf
  refine ⟨_, exec_recording (f := deviceGetString x) rfl (fun _ => rfl) hready.1.1, fun h0 => ?_, fun hs => ?_, fun h0 hs =>
    ⟨fun text htext => ?_, fun hnone => ?_⟩⟩
  · exact deviceGetString_answers hready (if_pos h0) (short_fits hwf (by simp))
  · have hx0 : x ≠ 0 := hs ▸ hindex
    rw [← stringDesc_eq]
    exact deviceGetString_answers hready ((if_neg hx0).trans (if_pos hs)) hserial
  · rw [← stringDesc_eq]
    exact deviceGetString_answers hready (by rw [stringResponse_text h0 hs, htext]; rfl)
      (stringDesc_fits hwf htext)
  · have hno : stringResponse s.cfg x = none := by rw [stringResponse_text h0 hs, hnone]; rfl
    have hrejected : deviceGetString x (s.withCtl (recorded (.getDescriptorString dir x i l) s.ctl))
        = reject (s.withCtl (recorded (.getDescriptorString dir x i l) s.ctl)) := by
      simp only [deviceGetString, modCtl_cfg, hno]
    rw [hrejected]
    exact reject_spec _ hready.1

/-! ## The ends of the control pipe's transfers (R208-R210, R213) -/

/-- Where packet memory and `scratch` read as before, and only the control pipe's fields are written, no byte changes. -/
theorem bytesKept_of_pipeFrame {s t : State} (h : t = { s with
      eps := t.eps, hws := t.hws, ctl := t.ctl, periph := t.periph, pma := t.pma })
    (hscratch : t.ctl.scratch = s.ctl.scratch) (hpma : ∀ a, pmaByte t a = pmaByte s a) : BytesKept s t := by
  refine ⟨hpma, fun ⟨array, o⟩ i => ?_, fun a => by rw [h]; rfl⟩
  cases array with
  | scratch =>
    show byteOf .scratch t.epoch t.ctl.scratch _ = byteOf .scratch s.epoch s.ctl.scratch _
    rw [hscratch, h]
  | _ => rw [h]; rfl

/-- A zero-length packet is posted and loaded; no byte of packet memory changes (R156, R161). -/
theorem epWriteZlp_leaves {ep : EpAddr} {s : State} (h : EpUsable ep s) (hd : ep.isIn = true) (hr : RegionFits ep s) :
    (epWriteZlp ep s).ep ep = { s.ep ep with buf := .none, remaining := 0, transferred := 0, active := true, inflight := 0 }
      ∧ (epWriteZlp ep s).hw ep = { s.hw ep with count := 0, ctr := false, stat := armedStat ep s }
      ∧ (∀ a, pmaByte (epWriteZlp ep s) a = pmaByte s a)
      ∧ epWriteZlp ep s = { s with
          eps := (epWriteZlp ep s).eps, hws := (epWriteZlp ep s).hws, pma := (epWriteZlp ep s).pma }
      ∧ OtherEpsKept [ep] s (epWriteZlp ep s) := by
  obtain ⟨⟨hep, hhw, -, hpma⟩, -, hframe, hothers⟩ := epWrite_spec (buf := .none) (len := 0) h hd rfl hr
  rw [Nat.zero_min] at hep hhw hpma
  exact ⟨hep, hhw, fun a => hpma a (by omega), hframe, hothers⟩

/-- A stored address is the address now, and the hardware's (R213). -/
def addressApplied (s : State) : State :=
  { s with
    periph := { s.periph with hwAddress := s.ctl.pendingAddr.getD s.periph.hwAddress },
    ctl := { s.ctl with address := s.ctl.pendingAddr.getD s.ctl.address, pendingAddr := none } }

theorem applyPendingAddress_eq (s : State) : applyPendingAddress s = addressApplied s := by
  unfold applyPendingAddress addressApplied
  cases h : s.ctl.pendingAddr with
  | some a => rfl
  | none => exact congrArg (fun p => { s with ctl := { s.ctl with pendingAddr := p } }) h

/-- DataIn with a ZLP owed: the ZLP is loaded (R209). -/
theorem ctrlInDone_owed {s : State} (hd : s.ctl.ctrlState = .dataIn) (hz : s.ctl.zlpPending = true) :
    ctrlInDone s = epWriteZlp ctlIn ((addressApplied s).modCtl (fun c => { c with zlpPending := false })) := by
  have hd' : (addressApplied s).ctl.ctrlState = .dataIn := hd
  have hz' : (addressApplied s).ctl.zlpPending = true := hz
  simp [ctrlInDone, applyPendingAddress_eq, ctrlInAdvance, hd', hz']

/-- Any other sub-state advances, and the endpoint is left alone (R209). -/
theorem ctrlInDone_advances {s : State} (h : ¬ (s.ctl.ctrlState = .dataIn ∧ s.ctl.zlpPending = true)) :
    ctrlInDone s = (addressApplied s).modCtl (fun c => { c with
      ctrlState := if s.ctl.ctrlState = .dataIn then .statusOut
                   else if s.ctl.ctrlState = .statusIn then .idle else s.ctl.ctrlState }) := by
  rw [ctrlInDone, applyPendingAddress_eq]
  have hstate : (addressApplied s).ctl.ctrlState = s.ctl.ctrlState := rfl
  have hzlp : (addressApplied s).ctl.zlpPending = s.ctl.zlpPending := rfl
  cases hc : s.ctl.ctrlState with
  | dataIn =>
    have hz : ¬ s.ctl.zlpPending = true := fun hz => h ⟨hc, hz⟩
    simp [ctrlInAdvance, hstate, hc, hzlp, hz]
  | statusIn => simp [ctrlInAdvance, hstate, hc]
  | idle | setup | dataOut | statusOut | stall =>
    simp only [ctrlInAdvance, hstate, hc]
    exact congrArg (fun x => (addressApplied s).modCtl (fun c => { c with ctrlState := x })) hc

/-- A state that differs in the endpoint tables alone, with its two tables named. -/
theorem tables_of_frame {s t : State} (h : t = { s with eps := t.eps, hws := t.hws }) :
    ∃ E H, t = { s with eps := E, hws := H } := ⟨_, _, h⟩

/-- Settles O28: `ctrlInDone` on the state in which the packet has been counted. -/
theorem controlInCompletionAdvances : Obligations.ControlInCompletionAdvances := by
  rintro s ⟨⟨hf, hn, -, hopenIn⟩, hfits⟩ hlast hcb
  obtain ⟨hexec, hdelivered⟩ := evCtr_lastIn hlast
  rw [hcb] at hexec
  generalize inCounted ctlIn s = w at hexec hdelivered
  obtain ⟨wep, whw, wframe, wothers, -⟩ := hdelivered
  obtain ⟨E, H, rfl⟩ := tables_of_frame wframe
  refine ⟨ctrlInDone _, hexec, ?_⟩
  by_cases howed : s.ctl.ctrlState = .dataIn ∧ s.ctl.zlpPending = true
  · rw [ctrlInDone_owed (s := { s with eps := E, hws := H }) howed.1 howed.2]
    set v := (addressApplied { s with eps := E, hws := H }).modCtl (fun c => { c with zlpPending := false })
    have vep : v.ep ctlIn = inDone (s.ep ctlIn) := wep
    have vhw : v.hw ctlIn = { s.hw ctlIn with ctr := false } := whw
    have hreg : inRegion ctlIn v = inRegion ctlIn s := by rw [inRegion, inRegion, vep, vhw]; rfl
    have harm : armedStat ctlIn v = armedStat ctlIn s := by rw [armedStat, armedStat, vep, vhw]; rfl
    obtain ⟨tep, thw, tpma, tframe, tothers⟩ := epWriteZlp_leaves (ep := ctlIn) (s := v)
      ⟨hf, hn, by rw [vep]; exact hopenIn⟩ rfl (by rw [RegionFits, hreg, vep]; exact hfits)
    rw [vep] at tep
    rw [vhw, harm] at thw
    have tctl : (epWriteZlp ctlIn v).ctl = v.ctl := (congrArg State.ctl tframe :)
    have tperiph : (epWriteZlp ctlIn v).periph = v.periph := (congrArg State.periph tframe :)
    have hframe : epWriteZlp ctlIn v = { s with
        eps := (epWriteZlp ctlIn v).eps, hws := (epWriteZlp ctlIn v).hws, ctl := (epWriteZlp ctlIn v).ctl,
        periph := (epWriteZlp ctlIn v).periph, pma := (epWriteZlp ctlIn v).pma } := by
      rw [tctl, tperiph]
      exact tframe
    exact ⟨tperiph, ⟨fun _ _ => ⟨tctl, tep, thw⟩, fun h => absurd howed h⟩, hframe, otherEpsKept_trans wothers tothers,
      bytesKept_of_pipeFrame hframe (congrArg Control.scratch tctl :) tpma⟩
  · rw [ctrlInDone_advances (s := { s with eps := E, hws := H }) howed]
    exact ⟨rfl, ⟨fun hd hz => absurd ⟨hd, hz⟩ howed, fun _ => ⟨rfl, wep, whw⟩⟩, rfl, wothers,
      bytesKept_of_pipeFrame rfl rfl fun _ => rfl⟩

/-- Abandoning a transfer ends it without its callback (40 R167). -/
theorem abandon_leaves (ep : EpAddr) (s : State) : (abandon ep s).ep ep = { s.ep ep with active := false }
    ∧ (abandon ep s).hw ep = { s.hw ep with ctr := false, stat := if (s.ep ep).stalled = true then (s.hw ep).stat else .nak }
    ∧ OtherEpsKept [ep] s (abandon ep s) :=
  ⟨by simp [abandon], by simp [abandon], otherEpsKept_modEp_modHw _ _ _ _⟩

/-- The control pair stays ready where it is open and control IN is as it was. -/
theorem controlReady_kept {s t : State} (h : ControlReady s) (hf : t.fault = none) (hc : t.cfg = s.cfg)
    (ho : (t.ep ctlOut).isOpen = true) (hin : t.ep ctlIn = s.ep ctlIn ∧ t.hw ctlIn = s.hw ctlIn) : ControlReady t := by
  obtain ⟨hep, hhw⟩ := hin
  obtain ⟨⟨-, hn, -, hopenIn⟩, hfits⟩ := h
  refine ⟨⟨hf, by rw [hc]; exact hn, ho, by rw [hep]; exact hopenIn⟩, ?_⟩
  rw [RegionFits, inRegion, hep, hhw, hc]
  exact hfits

/-- The host's status OUT: what is left of the IN stage is withdrawn and the pipe is Idle (R210). -/
theorem ctrlOutDone_statusOut {s : State} (h : s.ctl.ctrlState = .dataIn ∨ s.ctl.ctrlState = .statusOut) :
    ctrlOutDone s = (abandon ctlIn s).modCtl (fun c => { c with zlpPending := false, ctrlState := .idle }) := by
  rcases h with h | h <;> simp [ctrlOutDone, h]

theorem ctrlOutDone_dataOut {s : State} (h : s.ctl.ctrlState = .dataOut) :
    ctrlOutDone s = (controlDataReady s).andThen ctlStatus := by
  simp [ctrlOutDone, h]

/-- A class that has a data-ready hook runs what is given for it (R239, assumption log 13). -/
theorem controlDataReady_hook {s : State} {run : ClassRun} {rest : List ClassRun} (hcls : s.cfg.cls = .other true)
    (hruns : s.classRuns = run :: rest) :
    controlDataReady s = classActs run.acts { s with classRuns := rest, calls := .dataReady :: s.calls } := by
  simp [controlDataReady, hcls, runClass, nextClassRun, useClassRun, hruns]

theorem controlDataReady_noHook {s : State} (hcls : s.cfg.cls = .msc ∨ s.cfg.cls = .other false) : controlDataReady s = s := by
  rcases hcls with h | h <;> simp [controlDataReady, h]

/-- Settles O29: `ctrlOutDone` on the state in which the packet has been delivered. -/
theorem controlOutCompletionAdvances : Obligations.ControlOutCompletionAdvances := by
  intro s hlast hcb
  obtain ⟨w, hexec, hdelivered, hnone⟩ := evCtr_lastOut hlast
  rw [hcb] at hexec
  obtain ⟨-, -, wep, whw, wframe, wothers⟩ := id hdelivered
  have hin : ctlIn ∉ [ctlOut] := by simp [ctlIn_ne_ctlOut]
  have wstate : w.ctl.ctrlState = s.ctl.ctrlState := by rw [wframe]
  refine ⟨fun hbuf hstate => ?_, fun hstate => ⟨fun hready hcls => ?_, fun run rest hcls hruns => ?_⟩⟩
  · obtain ⟨-, -, -, -, -, hfits⟩ := hlast
    have hzero : outTaken ctlOut s = 0 := by
      rw [hbuf] at hfits
      have := of_decide_eq_true hfits
      simp [arrayWritable] at this
      omega
    have wtables := hnone hzero hbuf
    refine ⟨ctrlOutDone w, hexec, ?_⟩
    rw [ctrlOutDone_statusOut (by rw [wstate]; exact hstate)]
    obtain ⟨aep, ahw, aothers⟩ := abandon_leaves ctlIn w
    obtain ⟨inEp, inHw⟩ := wothers ctlIn hin
    obtain ⟨outEp, outHw⟩ := aothers ctlOut (by simp [ctlIn_ne_ctlOut.symm])
    obtain ⟨E, H, rfl⟩ := tables_of_frame wtables
    refine ⟨rfl, outEp.trans wep, outHw.trans whw, ?_, ?_, onlyEps_of_frame rfl fun a ha => ?_⟩
    · rw [inEp] at aep
      exact aep
    · rw [inEp, inHw] at ahw
      exact ahw
    · simp only [List.mem_cons, List.not_mem_nil, or_false, not_or] at ha
      obtain ⟨aep', ahw'⟩ := aothers a (by simp [ha.1])
      obtain ⟨wep', whw'⟩ := wothers a (by simp [ha.2])
      exact ⟨aep'.trans wep', ahw'.trans whw'⟩
  · refine ⟨w, ctrlOutDone w, hdelivered, hexec, ?_⟩
    have hstatus : ctrlOutDone w = ctlStatus w := by
      rw [ctrlOutDone_dataOut (by rw [wstate]; exact hstate), controlDataReady_noHook (by rw [wframe]; exact hcls),
        andThen_running (by rw [wframe]; exact hready.1.1)]
    rw [hstatus]
    exact ctlStatus_spec w.ctl (controlReady_kept hready (by rw [wframe]; exact hready.1.1) (by rw [wframe])
      (by rw [wep]; exact (ctlOut_usable hready.1).2.2) (wothers ctlIn hin))
  · have hhook : ctrlOutDone w
        = (classActs run.acts { w with classRuns := rest, calls := .dataReady :: s.calls }).andThen ctlStatus := by
      have wcalls : w.calls = s.calls := by rw [wframe]
      rw [ctrlOutDone_dataOut (by rw [wstate]; exact hstate), controlDataReady_hook (by rw [wframe]; exact hcls)
        (by rw [wframe]; exact hruns), wcalls]
    rw [callback, hhook] at hexec
    refine ⟨w, _, _, hdelivered, rfl, hexec, fun hfault => ?_, fun hready => ?_⟩
    · obtain ⟨r, hr⟩ := Option.ne_none_iff_exists'.mp hfault
      exact andThen_faulted hr _
    · rw [andThen_running hready.1.1]
      exact ctlStatus_spec _ hready

/-! ## Forwarded requests (R237, R238; 42_bot_scsi R265) -/

theorem requestInterface_le16 (a b : Byte) : requestInterface (le16 a b) = a.toNat := by
  rw [requestInterface, le16, octet_append_zero]

/-- A class request that is neither of the mass-storage class's two is not handled by it (42 R265). -/
theorem mscSetup_unhandled {b : Vector Byte 8} (h : Instr.isMscRequest b[0] b[1] (le16 b[6] b[7]) = false) (s : State) :
    mscSetup (decodeClassReq b) s = (s, false) := by
  simp only [Instr.isMscRequest, Bool.or_eq_false_iff, Bool.and_eq_false_iff, beq_eq_false_iff_ne] at h
  rw [decodeClassReq, if_neg (by tauto), if_neg (by tauto)]
  rfl

/-- The recorded bytes of a CLASSREQ row. -/
theorem requestOf_classReq {x : Instr} {m r : Byte} {v i l : BitVec 16} {b : Vector Byte 8}
    (h : encode x = classReqWord m r v i l) (hb : b.toList = (classReqWord m r v i l).bytes) : requestOf x = b := by
  apply Vector.toList_inj.mp
  rw [hb, requestOf, h]
  rfl

/-- Its first two bytes and its wLength are its operands. -/
theorem requestOf_fields {x : Instr} {m r : Byte} {v i l : BitVec 16} (h : encode x = classReqWord m r v i l) :
    (requestOf x)[0] = m ∧ (requestOf x)[1] = r ∧ le16 (requestOf x)[6] (requestOf x)[7] = l := by
  simp only [requestOf, h]
  exact ⟨rfl, rfl, le16_octets l⟩

/-- A CLASSREQ row forwards itself, on the recorded request. -/
theorem exec_classReq {x : Instr} {m r : Byte} {v i l : BitVec 16} {b : Vector Byte 8}
    (h : encode x = classReqWord m r v i l) (hb : b.toList = (classReqWord m r v i l).bytes)
    (hx : ∀ s, exec x s = agentStep s (fun s => forward b x (beginRequest b s))) {s : State} (hf : s.fault = none) :
    exec x s = .next (forward (requestOf x) x (s.withCtl (recorded x s.ctl))) := by
  rw [hx, agentStep_running hf, beginRequest_classReq h hb, requestOf_classReq h hb]

/-- A forwarding row records its request and forwards it, as a class request that the mass-storage class handles only where its
bytes say so. -/
theorem exec_forwarding {i : Instr} (hi : forwardsRequest i = true) {s : State} (hf : s.fault = none) :
    ∃ j, exec i s = .next (forward (requestOf i) j (s.withCtl (recorded i s.ctl)))
      ∧ (Instr.isMscRequest (requestOf i)[0] (requestOf i)[1] (le16 (requestOf i)[6] (requestOf i)[7]) = false →
          ∀ t, mscSetup j t = (t, false)) := by
  cases i with
  | setupInterfaceForward d ty r v i l =>
    have hreq : requestOf (.setupInterfaceForward d ty r v i l) = setupBytes d ty 1 r v i l := rfl
    rw [hreq]
    exact ⟨_, exec_recording (f := forward _ (decodeClassReq _)) rfl (fun _ => rfl) hf, mscSetup_unhandled⟩
  | getMaxLun v i l =>
    obtain ⟨h0, h1, -⟩ := requestOf_fields (x := .getMaxLun v i l) rfl
    refine ⟨.getMaxLun v i l, exec_classReq (b := setupBytes true 1 1 0xFE v i l) rfl rfl (fun _ => rfl) hf, fun h => ?_⟩
    simp [h0, h1, Instr.isMscRequest] at h
  | bulkOnlyMassStorageReset v i =>
    obtain ⟨h0, h1, h2⟩ := requestOf_fields (x := .bulkOnlyMassStorageReset v i) rfl
    refine ⟨.bulkOnlyMassStorageReset v i, exec_classReq (b := setupBytes false 1 1 0xFF v i 0) rfl rfl (fun _ => rfl) hf,
      fun h => ?_⟩
    simp [h0, h1, h2, Instr.isMscRequest] at h
  | classreqOther m r v i l =>
    have hbytes : (setupBytes (reqDir m) (reqType m) (reqRecip m) r v i l).toList = (classReqWord m r v i l).bytes := by
      simp [setupBytes, requestType_fields, classReqWord, le16Bytes]
    exact ⟨.classreqOther m r v i l, exec_classReq rfl hbytes (fun _ => rfl) hf, fun _ _ => rfl⟩
  | _ => exact absurd hi Bool.false_ne_true

section Forward

variable {s : State} {i : Instr}

/-- The guard of a forwarded request reads the session before recording (R237). -/
theorem forward_guard : (!(s.withCtl (recorded i s.ctl)).ctl.classActive
      || decide (s.cfg.interfaceCount ≤ requestInterface (le16 (requestOf i)[4] (requestOf i)[5]))) = true
    ↔ ¬ ForwardsToClass i s := by
  rw [requestInterface_le16]
  have hbyte : (requestOf i)[4] = byteAt (encode i).bytes 4 := rfl
  have hactive : (s.withCtl (recorded i s.ctl)).ctl.classActive = s.ctl.classActive := rfl
  rw [hbyte, hactive, ForwardsToClass]
  cases s.ctl.classActive <;> simp

theorem forward_rejects (h : ¬ ForwardsToClass i s) (j : Instr) :
    forward (requestOf i) j (s.withCtl (recorded i s.ctl)) = reject (s.withCtl (recorded i s.ctl)) :=
  if_pos (forward_guard.mpr h)

/-- A request that goes to the class ends as the class's answer says (R237). -/
theorem forward_asks (h : ForwardsToClass i s) (j : Instr) {t : State} {handled : Bool}
    (ht : classSetup (requestOf i) j (s.withCtl (recorded i s.ctl)) = (t, handled)) :
    forward (requestOf i) j (s.withCtl (recorded i s.ctl)) = t.andThen (finishForward handled) := by
  refine (if_neg (mt forward_guard.mp (not_not.mpr h))).trans ?_
  rw [ht]

end Forward

/-- Settles O41: a request that is not forwarded, or that the mass-storage class does not handle, ends in `reject`. -/
theorem unhandledClassRequestsAreRejected : Obligations.UnhandledClassRequestsAreRejected := by
  intro s i hopen hi
  obtain ⟨j, hexec, hunhandled⟩ := exec_forwarding hi hopen.1
  refine ⟨fun h => ⟨_, hexec, ?_⟩, fun h hmsc hother => ⟨_, hexec, ?_⟩⟩
  · rw [forward_rejects h]
    exact reject_spec _ hopen
  · have hclass : classSetup (requestOf i) j (s.withCtl (recorded i s.ctl)) = (s.withCtl (recorded i s.ctl), false) := by
      simp only [classSetup, modCtl_cfg, hmsc]
      exact hunhandled hother _
    rw [forward_asks h j hclass, andThen_running (by exact hopen.1)]
    exact reject_spec _ hopen

/-- A handled request with no data owed and no stage started is sent the status (R237). -/
theorem finishForward_handled (s : State) : finishForward true s
    = if s.ctl.ctrlState = .setup ∧ s.ctl.ctrlLen = 0 then ctlStatus s else s := rfl

/-- A stall of a closed endpoint raises the fault (40 R157, R338). -/
theorem epStall_closed {ep : EpAddr} {s : State} (hn : ep.num.toNat < s.cfg.nEp) (ho : (s.ep ep).isOpen = false) :
    epStall ep s = s.raise .epNotOpen := withChecks_raises (checkOpen_closed hn ho) _ _ _

/-- A reject where a control endpoint is closed stops the machine (40 R157). -/
theorem reject_closed {s : State} (hf : s.fault = none) (hn : 0 < s.cfg.nEp) (h : ¬ ControlOpen s) :
    (reject s).fault = some .epNotOpen := by
  have hraise {t : State} (ht : t.fault = none) : (t.raise .epNotOpen).fault = some .epNotOpen := by rw [raise_fault, ht]; rfl
  cases hin : (s.ep ctlIn).isOpen with
  | false =>
    rw [reject, epStall_closed (by exact hn) hin, raise_andThen, raise_andThen]
    exact hraise hf
  | true =>
    obtain ⟨-, hf', hframe, hothers, -⟩ := epStall_spec (ep := ctlIn) (s := s) ⟨hf, hn, hin⟩
    obtain ⟨hout, -⟩ := hothers ctlOut (by simp [ctlIn_ne_ctlOut.symm])
    have hclosed : ((epStall ctlIn s).ep ctlOut).isOpen = false := by
      rw [hout]
      exact Bool.eq_false_iff.mpr fun ho => h ⟨hf, hn, ho, hin⟩
    rw [reject, andThen_running hf', epStall_closed (by rw [hframe]; exact hn) hclosed, raise_andThen]
    exact hraise hf'

/-- Settles O44: the class function runs in `u`, and `finishForward` follows its answer. -/
theorem opaqueClassAnswersRequests : Obligations.OpaqueClassAnswersRequests := by
  intro s i hook run rest hf hcls hi hforwards hruns
  obtain ⟨j, hexec, -⟩ := exec_forwarding hi hf
  have hclass : classSetup (requestOf i) j (s.withCtl (recorded i s.ctl)) = (classActs run.acts { s with
      ctl := recorded i s.ctl, classRuns := rest, calls := .setup (requestOf i) :: s.calls }, run.handled) := by
    simp [classSetup, hcls, runClass, nextClassRun, useClassRun, hruns]
  rw [forward_asks hforwards j hclass] at hexec
  refine ⟨_, _, rfl, hexec, ?_⟩
  generalize classActs run.acts _ = u
  refine ⟨fun hfault => ?_, fun hopen hno => ?_, fun hfault hn hclosed hno => ?_, fun hready hyes hsetup hlen => ?_,
    fun hfault hyes hdone => ?_⟩
  · obtain ⟨r, hr⟩ := Option.ne_none_iff_exists'.mp hfault
    exact andThen_faulted hr _
  · rw [andThen_running hopen.1, hno]
    exact reject_spec _ hopen
  · rw [andThen_running hfault, hno]
    exact reject_closed hfault hn hclosed
  · rw [andThen_running hready.1.1, hyes, finishForward_handled, if_pos ⟨hsetup, hlen⟩]
    exact ctlStatus_spec _ hready
  · rw [andThen_running hfault, hyes, finishForward_handled, if_neg hdone]

/-! ## The status after an operation on other endpoints (R208) -/

/-- What a posted IN transfer is relative to depends on its endpoint and on packet memory alone. -/
theorem writePosted_congr {ep : EpAddr} {buf : BufRef} {len : Nat} {s u t : State} (hep : u.ep ep = s.ep ep)
    (hhw : u.hw ep = s.hw ep) (hpma : ∀ a, pmaByte u a = pmaByte s a) (h : WritePosted ep buf len u t) :
    WritePosted ep buf len s t := by
  have hreg : inRegion ep u = inRegion ep s := by rw [inRegion, inRegion, hep, hhw]
  have harm : armedStat ep u = armedStat ep s := by rw [armedStat, armedStat, hep, hhw]
  unfold WritePosted PmaKeptOutside at h ⊢
  rw [hep, hhw, hreg, harm] at h
  simpa only [hpma] using h

theorem otherEpsKept_mono {l l' : List EpAddr} {s t : State} (h : OtherEpsKept l s t) (hl : l ⊆ l') : OtherEpsKept l' s t :=
  fun a ha => h a fun hm => ha (hl hm)

/-- ctl_status in a state `u` that differs from the ready state `s` in no endpoint but those of `l`, and not in packet memory. -/
theorem ctlStatus_after {s u : State} {l : List EpAddr} (hready : ControlReady s) (hf : u.fault = none) (hc : u.cfg = s.cfg)
    (hothers : OtherEpsKept l s u) (hi : ctlIn ∉ l) (ho : ctlOut ∉ l) (hpma : ∀ a, pmaByte u a = pmaByte s a) :
    (ctlStatus u).fault = none ∧ WritePosted ctlIn .none 0 s (ctlStatus u)
      ∧ (ctlStatus u).ctl = { u.ctl with ctrlState := .statusIn }
      ∧ ctlStatus u = { u with eps := (ctlStatus u).eps, hws := (ctlStatus u).hws, ctl := (ctlStatus u).ctl,
                               pma := (ctlStatus u).pma }
      ∧ (∀ a ∈ l, (ctlStatus u).ep a = u.ep a ∧ (ctlStatus u).hw a = u.hw a)
      ∧ OtherEpsKept (ctlIn :: l) s (ctlStatus u) := by
  obtain ⟨houtEp, -⟩ := hothers ctlOut ho
  obtain ⟨hinEp, hinHw⟩ := hothers ctlIn hi
  have hready' := controlReady_kept hready hf hc (by rw [houtEp]; exact (ctlOut_usable hready.1).2.2) ⟨hinEp, hinHw⟩
  obtain ⟨⟨hframe, tothers, -⟩, tf, hposted, hout, houtHw, hctl⟩ := ctlStatus_spec u.ctl hready'
  have tkept : OtherEpsKept [ctlIn] u (ctlStatus u) := fun a ha => by
    by_cases h : a = ctlOut
    · exact h ▸ ⟨hout, houtHw⟩
    · exact tothers a (by simpa [h] using ha)
  refine ⟨tf, writePosted_congr hinEp hinHw hpma hposted, hctl, hframe, fun a ha => tkept a ?_, ?_⟩
  · simpa using fun h : a = ctlIn => hi (h ▸ ha)
  · exact otherEpsKept_trans (otherEpsKept_mono hothers (List.subset_cons_self ..)) (otherEpsKept_mono tkept (by simp))

/-! ## Requests to an endpoint (R232-R235) -/

/-- An endpoint other than the control pair that is legal is open, and exists (R232). -/
theorem legal_usable {s : State} {e : EpAddr} (hf : s.fault = none) (h : EndpointLegal e s) (hn : e.num ≠ 0) : EpUsable e s := by
  rcases h with ⟨-, h0⟩ | ⟨-, hex, hopen⟩
  · exact absurd h0 hn
  · exact ⟨hf, hex, hopen⟩

theorem endpointStatus_bytes (stalled : Bool) : le16Bytes (endpointStatus stalled) = [if stalled = true then 1 else 0, 0] := by
  cases stalled <;> rfl

/-- The status after an operation that has written the record and the status of one endpoint outside the control pair. -/
theorem ctlStatus_after_endpoint {s : State} (c : Control) {e : EpAddr} {f : EpRec → EpRec} {g : EpHw → EpHw}
    (hready : ControlReady s) (hn : e.num ≠ 0) :
    let t := ctlStatus (((s.withCtl c).modEp e f).modHw e g)
    t.fault = none ∧ t.ep e = f (s.ep e) ∧ t.hw e = g (s.hw e) ∧ WritePosted ctlIn .none 0 s t
      ∧ t.ctl = { c with ctrlState := .statusIn }
      ∧ t = { s with eps := t.eps, hws := t.hws, ctl := t.ctl, pma := t.pma } ∧ OtherEpsKept [ctlIn, e] s t := by
  have hothers : OtherEpsKept [e] s (((s.withCtl c).modEp e f).modHw e g) := otherEpsKept_modEp_modHw (s.withCtl c) e f g
  have hcontrol {a : EpAddr} (ha : a.num = 0) : a ∉ [e] := by
    rw [List.mem_singleton]
    exact fun h => hn (h ▸ ha)
  obtain ⟨tf, tposted, tctl, tframe, tkept, tothers⟩ := ctlStatus_after
    (u := ((s.withCtl c).modEp e f).modHw e g) hready hready.1.1 rfl hothers (hcontrol rfl) (hcontrol rfl) fun _ => rfl
  obtain ⟨tep, thw⟩ := tkept e (List.mem_singleton.mpr rfl)
  refine ⟨tf, ?_, ?_, tposted, tctl, tframe, tothers⟩
  · rw [tep]
    exact ep_modEp_same ..
  · rw [thw]
    exact hw_modHw_same ..

/-- Settles O40: the rows are rejected as `endpointRow_rejected` says; on a legal endpoint the stall bit is answered from `scratch`,
or the endpoint is destalled or stalled and the status sent. -/
theorem endpointRequestsComplete : Obligations.EndpointRequestsComplete := by
  intro s dir v i l hready hwf
  have hf := hready.1.1
  have he : decodeEp (i.extractLsb' 0 8) = requestEp i := rfl
  rw [he]
  refine ⟨?_, fun hlegal => ⟨fun hl => ?_, fun hv hn => ?_, fun hv hn => ⟨?_, ?_⟩⟩⟩
  · have hget (h : ¬ EndpointLegal (requestEp i) s ∨ l ≠ 2) := endpointRow_rejected (x := .getStatusEndpoint dir v i l) rfl
      (fun _ => rfl) hready.1 (h.imp id fun hl _ => if_pos hl)
    have hclear (h : ¬ EndpointLegal (requestEp i) s ∨ v ≠ 0) := endpointRow_rejected (x := .clearFeatureEndpoint dir v i l) rfl
      (fun _ => rfl) hready.1 (h.imp id fun hv _ => if_pos hv)
    have hset (h : ¬ EndpointLegal (requestEp i) s ∨ v ≠ 0) := endpointRow_rejected (x := .setFeatureEndpoint dir v i l) rfl
      (fun _ => rfl) hready.1 (h.imp id fun hv _ => if_pos hv)
    rintro r (⟨rfl, hl⟩ | ⟨rfl, hv⟩ | ⟨rfl, hv⟩ | ⟨hr, hillegal⟩)
    · exact hget (.inr hl)
    · exact hclear (.inr hv)
    · exact hset (.inr hv)
    · simp only [List.mem_cons, List.not_mem_nil, or_false] at hr
      rcases hr with rfl | rfl | rfl
      · exact hget (.inl hillegal)
      · exact hclear (.inl hillegal)
      · exact hset (.inl hillegal)
  · refine ⟨_, endpointRow_runs (x := .getStatusEndpoint dir v i l) rfl (fun _ => rfl) hf hlegal, ?_⟩
    rw [endpointGetStatus, if_neg (not_not.mpr hl), endpointStatus_bytes]
    exact scratch_answers hready (short_fits hwf (by simp))
  · rintro r (rfl | rfl)
    · refine ⟨_, endpointRow_runs (x := .clearFeatureEndpoint dir v i l) rfl (fun _ => rfl) hf hlegal, ?_⟩
      rw [endpointClearHalt, if_neg (not_not.mpr hv), if_pos hn, andThen_running (by exact hf)]
      exact ctlStatus_spec _ hready
    · refine ⟨_, endpointRow_runs (x := .setFeatureEndpoint dir v i l) rfl (fun _ => rfl) hf hlegal, ?_⟩
      rw [endpointSetHalt, if_neg (not_not.mpr hv), if_pos hn, andThen_running (by exact hf)]
      exact ctlStatus_spec _ hready
  · refine ⟨_, endpointRow_runs (x := .clearFeatureEndpoint dir v i l) rfl (fun _ => rfl) hf hlegal, ?_⟩
    have hu : EpUsable (requestEp i) (s.withCtl (recorded (.clearFeatureEndpoint dir v i l) s.ctl)) := legal_usable hf hlegal hn
    rw [endpointClearHalt, if_neg (not_not.mpr hv), if_neg hn, epDestall_eq hu, andThen_running (by exact hf)]
    exact ctlStatus_after_endpoint _ hready hn
  · refine ⟨_, endpointRow_runs (x := .setFeatureEndpoint dir v i l) rfl (fun _ => rfl) hf hlegal, ?_⟩
    have hu : EpUsable (requestEp i) (s.withCtl (recorded (.setFeatureEndpoint dir v i l) s.ctl)) := legal_usable hf hlegal hn
    rw [endpointSetHalt, if_neg (not_not.mpr hv), if_neg hn, epStall_eq hu, andThen_running (by exact hf)]
    obtain ⟨tfault, tep, thw, trest⟩ := ctlStatus_after_endpoint _ hready hn
    exact ⟨tfault, ⟨tep, thw⟩, trest⟩

/-! ## SET_CONFIGURATION with value 0 (R230; 42_bot_scsi R261) -/

/-- deinit of the mass-storage class closes the bulk pair and idles the sequencer (42 R261). -/
theorem mscDeinit_leaves {s : State} (hi : EpUsable s.cfg.botInEp s) (ho : EpUsable s.cfg.botOutEp s)
    (hne : s.cfg.botInEp ≠ s.cfg.botOutEp) :
    (∀ a, a = s.cfg.botInEp ∨ a = s.cfg.botOutEp →
        (mscDeinit s).ep a = closeRecord (s.ep a) ∧ (mscDeinit s).hw a = closeHw (s.hw a))
      ∧ mscDeinit s = { s with eps := (mscDeinit s).eps, hws := (mscDeinit s).hws,
                               bot := { s.bot with state := .idle, zlp := false } }
      ∧ OtherEpsKept [s.cfg.botInEp, s.cfg.botOutEp] s (mscDeinit s) := by
  rw [mscDeinit_eq hi ho hne]
  refine ⟨?_, rfl, fun a ha => ?_⟩
  · rintro a (rfl | rfl)
    · simp [ep_modEp_ne _ _ hne, hw_modHw_ne _ _ hne]
    · simp [ep_modEp_ne _ _ hne.symm, hw_modHw_ne _ _ hne.symm]
  · simp only [List.mem_cons, List.not_mem_nil, or_false, not_or] at ha
    simp [ep_modEp_ne _ _ ha.1, ep_modEp_ne _ _ ha.2, hw_modHw_ne _ _ ha.1, hw_modHw_ne _ _ ha.2]

theorem leaveClass_inactive_eq {s : State} (h : s.ctl.classActive = false) : leaveClass s = s := if_neg (by simp [h])

theorem leaveClass_active_eq {s : State} (h : s.ctl.classActive = true) (hcls : s.cfg.cls = .msc)
    (hf : (mscDeinit s).fault = none) : leaveClass s = (mscDeinit s).modCtl (fun c => { c with classActive := false }) := by
  rw [leaveClass, if_pos h, classDeinit, hcls]
  exact andThen_running hf _

/-- The class is left and the configuration value recorded (R230). -/
def configRecorded (v : BitVec 16) (s : State) : State := (leaveClass s).modCtl (fun c => { c with config := v })

section Accepted

variable {v : BitVec 16} {s : State} (hd : s.ctl.devState ≠ .default) (hv : v.toNat ≤ s.cfg.maxConfiguration)
  (hf : (leaveClass s).fault = none)

include hd hv hf

/-- An accepted SET_CONFIGURATION leaves the class, records the value, and enters Addressed or the class (R230). -/
theorem deviceSetConfiguration_accepted : deviceSetConfiguration v s
    = State.andThen (if v = 0 then (configRecorded v s).modCtl (fun c => { c with devState := .addressed })
        else enterClass v (configRecorded v s)) ctlStatus := by
  rw [deviceSetConfiguration, if_neg (by simp [hd, hv]), andThen_running hf, andThen_running (s := State.modCtl _ _) hf]
  rfl

theorem deviceSetConfiguration_zero (h0 : v = 0) : deviceSetConfiguration v s
    = ctlStatus ((configRecorded v s).modCtl (fun c => { c with devState := .addressed })) := by
  rw [deviceSetConfiguration_accepted hd hv hf, if_pos h0]
  exact andThen_running (by exact hf) _

theorem deviceSetConfiguration_enters (h0 : v ≠ 0) :
    deviceSetConfiguration v s = (enterClass v (configRecorded v s)).andThen ctlStatus := by
  rw [deviceSetConfiguration_accepted hd hv hf, if_neg h0]

end Accepted

/-- The control pair is none of the bulk pair (00_scope R6). -/
theorem bulk_ne_control {c : Config} (h : configWf c = true) {a : EpAddr} (ha : a.num = 0) : a ∉ [c.botInEp, c.botOutEp] := by
  obtain ⟨-, -, hi, ho, -⟩ := configWf_bulk h
  simp only [List.mem_cons, List.not_mem_nil, or_false, not_or]
  exact ⟨fun h => hi (h ▸ ha), fun h => ho (h ▸ ha)⟩

section Recorded

variable {s : State} {c : Control} (v : BitVec 16)

theorem configRecorded_inactive (hc : c.classActive = false) :
    configRecorded v (s.withCtl c) = s.withCtl { c with config := v } := by
  rw [configRecorded, leaveClass_inactive_eq (s := s.withCtl c) hc]
  rfl

/-- An active mass-storage class is left with its bulk pair closed and its sequencer idle (42 R261). -/
theorem configRecorded_active (hwf : configWf s.cfg = true) (hc : c.classActive = true) (hcls : s.cfg.cls = .msc)
    (hi : EpUsable s.cfg.botInEp s) (ho : EpUsable s.cfg.botOutEp s) :
    let u := configRecorded v (s.withCtl c)
    (leaveClass (s.withCtl c)).fault = none
      ∧ u = { s with eps := u.eps, hws := u.hws, ctl := { c with config := v, classActive := false },
                     bot := { s.bot with state := .idle, zlp := false } }
      ∧ (∀ a, a = s.cfg.botInEp ∨ a = s.cfg.botOutEp → u.ep a = closeRecord (s.ep a) ∧ u.hw a = closeHw (s.hw a))
      ∧ OtherEpsKept [s.cfg.botInEp, s.cfg.botOutEp] s u := by
  obtain ⟨mclosed, mframe, mothers⟩ := mscDeinit_leaves (s := s.withCtl c) hi ho (bulk_ne hwf)
  have hf : (mscDeinit (s.withCtl c)).fault = none := by rw [mframe]; exact hi.1
  have hleft : leaveClass (s.withCtl c) = _ := leaveClass_active_eq hc hcls hf
  rw [configRecorded, hleft]
  generalize mscDeinit (s.withCtl c) = m at mclosed mframe mothers hf
  exact ⟨hf, congrArg (fun q : State =>
    (q.modCtl fun c => { c with classActive := false }).modCtl fun c => { c with config := v }) mframe, mclosed, mothers⟩

end Recorded

section ValueZero

variable {s : State} {c : Control} (hready : ControlReady s) (hd : c.devState ≠ .default)

include hready hd

/-- Value 0 with no class active (R230). -/
theorem setConfigurationZero_inactive (hc : c.classActive = false) :
    StatusSent { c with config := 0, devState := .addressed } s (deviceSetConfiguration 0 (s.withCtl c)) := by
  have hleft : leaveClass (s.withCtl c) = s.withCtl c := leaveClass_inactive_eq hc
  rw [deviceSetConfiguration_zero (s := s.withCtl c) hd (Nat.zero_le _) (by rw [hleft]; exact hready.1.1) rfl,
    configRecorded_inactive 0 hc]
  exact ctlStatus_spec { c with config := 0, devState := .addressed } hready

/-- Value 0 with the mass-storage class active: the class is left first (R230; 42 R261). -/
theorem setConfigurationZero_active (hwf : configWf s.cfg = true) (hc : c.classActive = true) (hcls : s.cfg.cls = .msc)
    (hi : EpUsable s.cfg.botInEp s) (ho : EpUsable s.cfg.botOutEp s) :
    let t := deviceSetConfiguration 0 (s.withCtl c)
    t.fault = none
      ∧ t.ctl = { c with config := 0, devState := .addressed, classActive := false, ctrlState := .statusIn }
      ∧ (∀ a, a = s.cfg.botInEp ∨ a = s.cfg.botOutEp → t.ep a = closeRecord (s.ep a) ∧ t.hw a = closeHw (s.hw a))
      ∧ WritePosted ctlIn .none 0 s t
      ∧ t.bot = { s.bot with state := .idle, zlp := false }
      ∧ t = { s with eps := t.eps, hws := t.hws, ctl := t.ctl, bot := t.bot, pma := t.pma }
      ∧ OtherEpsKept [ctlIn, s.cfg.botInEp, s.cfg.botOutEp] s t := by
  obtain ⟨hf, uframe, uclosed, uothers⟩ := configRecorded_active 0 hwf hc hcls hi ho
  rw [deviceSetConfiguration_zero (s := s.withCtl c) hd (Nat.zero_le _) hf rfl]
  generalize configRecorded 0 (s.withCtl c) = u at uframe uclosed uothers
  obtain ⟨tf, tposted, tctl, tframe, tkept, tothers⟩ := ctlStatus_after (u := u.modCtl fun c => { c with devState := .addressed })
    hready (by rw [uframe]; exact hready.1.1) (by rw [uframe]; rfl) uothers (bulk_ne_control hwf rfl) (bulk_ne_control hwf rfl)
    (by rw [uframe]; exact fun _ => rfl)
  generalize ctlStatus _ = t at tf tposted tctl tframe tkept tothers
  have tbot : t.bot = { s.bot with state := .idle, zlp := false } := by rw [tframe, uframe]; rfl
  refine ⟨tf, by rw [tctl, uframe]; rfl, fun a ha => ?_, tposted, tbot, ?_, tothers⟩
  · obtain ⟨tep, thw⟩ := tkept a (by simpa using ha)
    obtain ⟨uep, uhw⟩ := uclosed a ha
    exact ⟨tep.trans uep, thw.trans uhw⟩
  · rw [tbot]
    exact tframe.trans (congrArg (fun q : State => { q with eps := t.eps, hws := t.hws, ctl := t.ctl, pma := t.pma }) uframe)

end ValueZero

/-- Settles O38: `reject`, or the class left as `mscDeinit_leaves` says and the status sent. -/
theorem setConfigurationZeroCompletes : Obligations.SetConfigurationZeroCompletes := by
  intro s dir v i l hready hwf
  have hexec (v : BitVec 16) := exec_recording (x := .setConfiguration dir v i l) (f := deviceSetConfiguration v) rfl
    (fun _ => rfl) hready.1.1
  refine ⟨fun hbad => ⟨_, hexec v, ?_⟩, fun hd hc => ⟨_, hexec 0, setConfigurationZero_inactive hready hd hc⟩,
    fun hd hc hcls hi ho => ⟨_, hexec 0, setConfigurationZero_active hready hd hwf hc hcls hi ho⟩⟩
  rw [deviceSetConfiguration, if_pos (by exact hbad)]
  exact reject_spec _ hready.1

/-! ## SET_CONFIGURATION of a supported value (R230; 42_bot_scsi R261) -/

/-- The record of a bulk endpoint opened by the mass-storage class with its first region at `off` (40 R152, 42 R261). -/
def bulkRecord (c : Config) (ep : EpAddr) (off : Nat) (cb : CallbackId) (e : EpRec) : EpRec :=
  { e with
    isOpen := true, type := .bulk, mps := c.botMps, dbuf := decide (ep ∈ c.dbuf), off0 := off,
    off1 := if ep ∈ c.dbuf then off + c.botMps else e.off1,
    stalled := false, active := false, remaining := 0, transferred := 0, inflight := 0, callback := some cb }

/-- Closing the record first makes no difference. -/
theorem bulkRecord_congr {c : Config} {ep : EpAddr} {off : Nat} {cb : CallbackId} {e e' : EpRec}
    (h : closeRecord e = closeRecord e') : bulkRecord c ep off cb e = bulkRecord c ep off cb e' :=
  (congrArg (bulkRecord c ep off cb) h :)

/-- EP_OPEN of a bulk endpoint by the mass-storage class: `epOpen_spec` with DBUF(ep) read as membership. -/
theorem epOpen_bulk {c : Config} {ep : EpAddr} (cb : CallbackId) {s : State} (hwf : configWf c = true) (hf : s.fault = none)
    (hc : s.cfg = c) (hn : ep.num.toNat < c.nEp) (hp : s.pmaNext + openSize c ep c.botMps ≤ c.pmaSize) :
    let t := epOpen ep .bulk c.botMps cb s
    t.fault = none ∧ t.ep ep = bulkRecord c ep s.pmaNext cb (s.ep ep)
      ∧ t.hw ep = ⟨if ep.isIn = true then .nak else .valid, false, 0, false, false, false⟩
      ∧ t.pmaNext = s.pmaNext + openSize c ep c.botMps
      ∧ t = { s with eps := t.eps, hws := t.hws, pmaNext := t.pmaNext } ∧ OtherEpsKept [ep] s t := by
  obtain ⟨-, -, -, -, -, -, hm, hm'⟩ := configWf_bulk hwf
  subst hc
  have htakes : openTakes ep s.cfg.botMps s = openSize s.cfg ep s.cfg.botMps := by
    simp only [openTakes, openSize, isDbuf_eq, decide_eq_true_eq]
  obtain ⟨tf, tep, thw, tnext, tframe, tothers⟩ := epOpen_spec (ty := .bulk) (cb := cb) hf hn (by omega) (by omega)
    (htakes ▸ hp)
  refine ⟨tf, ?_, ?_, htakes ▸ tnext, tframe, tothers⟩
  · rw [tep, isDbuf_eq]
    simp only [bulkRecord, decide_eq_true_eq]
  · rw [thw, openStat]
    cases ep.isIn <;> rfl

/-- What init of the mass-storage class leaves (42 R261). -/
def MscEntered (s t : State) : Prop :=
  t.fault = none
    ∧ t.ep s.cfg.botInEp = bulkRecord s.cfg s.cfg.botInEp s.pmaNext .botIn (s.ep s.cfg.botInEp)
    ∧ t.hw s.cfg.botInEp = ⟨.nak, false, 0, false, false, false⟩
    ∧ t.ep s.cfg.botOutEp = { bulkRecord s.cfg s.cfg.botOutEp (s.pmaNext + openSize s.cfg s.cfg.botInEp s.cfg.botMps) .botOut
        (s.ep s.cfg.botOutEp) with buf := .cbw, active := true, remaining := cbwReadLen s.cfg }
    ∧ t.hw s.cfg.botOutEp = ⟨.valid, false, 0, false, false, false⟩
    ∧ t.pmaNext = s.pmaNext + openSize s.cfg s.cfg.botInEp s.cfg.botMps + openSize s.cfg s.cfg.botOutEp s.cfg.botMps
    ∧ t = { s with
        pmaNext := t.pmaNext, eps := t.eps, hws := t.hws,
        scsi := { s.scsi with
          medium := s.cfg.storageMedium.isSome, totalBlocks := s.cfg.storageMedium.getD 0,
          writeCapable := s.cfg.storageWrite, senseHead := 0, senseTail := 0, state := .ok },
        bot := { s.bot with state := .idle, zlp := false } }
    ∧ OtherEpsKept [s.cfg.botInEp, s.cfg.botOutEp] s t

/-- init of the mass-storage class where its bulk pair fits packet memory: two openings, the context, a CBW read (42 R261). -/
theorem mscInit_enters {s : State} (hf : s.fault = none) (hwf : configWf s.cfg = true)
    (hp : s.pmaNext + openSize s.cfg s.cfg.botInEp s.cfg.botMps + openSize s.cfg s.cfg.botOutEp s.cfg.botMps ≤ s.cfg.pmaSize) :
    MscEntered s (mscInit s) := by
  obtain ⟨hi, ho, -, -, hin, hon, -, -⟩ := configWf_bulk hwf
  have hne := bulk_ne hwf
  obtain ⟨af, aep, ahw, anext, aframe, aothers⟩ := epOpen_bulk .botIn hwf hf rfl hin (by omega)
  have hinit : mscInit s = _ := congrArg (fun t => State.andThen t _) (andThen_running af _)
  generalize epOpen s.cfg.botInEp .bulk s.cfg.botMps .botIn s = a at af aep ahw anext aframe aothers hinit
  obtain ⟨bf, bep, bhw, bnext, bframe, bothers⟩ := epOpen_bulk (ep := s.cfg.botOutEp) .botOut hwf af (by rw [aframe]) hon
    (by rw [anext]; exact hp)
  rw [andThen_running bf] at hinit
  generalize epOpen s.cfg.botOutEp .bulk s.cfg.botMps .botOut a = b at bf bep bhw bnext bframe bothers hinit
  obtain ⟨aep', ahw'⟩ := aothers s.cfg.botOutEp (by simpa using hne.symm)
  obtain ⟨bep', bhw'⟩ := bothers s.cfg.botInEp (by simpa using hne)
  rw [aep', anext] at bep
  obtain ⟨E, H, n, rfl⟩ : ∃ E H n, b = { s with eps := E, hws := H, pmaNext := n } :=
    ⟨_, _, _, bframe.trans (congrArg (fun q : State => { q with eps := b.eps, hws := b.hws, pmaNext := b.pmaNext }) aframe)⟩
  set d := setBotState .idle (mscContext { s with eps := E, hws := H, pmaNext := n }) with hd
  have dep : d.ep s.cfg.botOutEp = _ := bep
  have dhw : d.hw s.cfg.botOutEp = _ := bhw
  have hread : mscInit s = epRead s.cfg.botOutEp .cbw (cbwReadLen s.cfg) d := hinit
  obtain ⟨⟨tep, thw⟩, tf, tframe, tothers, -⟩ := epRead_spec (ep := s.cfg.botOutEp) (buf := .cbw) (len := cbwReadLen s.cfg)
    (s := d)
    ⟨hf, hon, by rw [dep]; rfl⟩ ho (by simp [writeFits, arrayWritable, arraySize, hd, setBotState, mscContext])
  have harm : armedStat s.cfg.botOutEp d = .valid := by
    rw [armedStat, dep]
    rfl
  rw [dep] at tep
  rw [dhw, harm] at thw
  rw [hread]
  generalize epRead _ _ _ d = t at tep thw tf tframe tothers
  obtain ⟨tinEp, tinHw⟩ := tothers s.cfg.botInEp (by simpa using hne)
  have tnext : t.pmaNext = n := (congrArg State.pmaNext tframe :)
  refine ⟨tf, tinEp.trans (bep'.trans aep), tinHw.trans (bhw'.trans (ahw.trans (by rw [if_pos hi]))), tep, thw, ?_, ?_, ?_⟩
  · rw [tnext, ← anext]
    exact bnext
  · rw [tnext]
    exact tframe
  · exact otherEpsKept_trans (otherEpsKept_mono aothers (by simp))
      (otherEpsKept_trans (otherEpsKept_mono bothers (by simp)) (otherEpsKept_mono tothers (by simp)))

/-- Whether the mass-storage class was active or not, no class is when the value is recorded: at most the bulk pair is closed and
the sequencer idled (R230; 42 R261). -/
theorem configRecorded_msc {s : State} {c : Control} (v : BitVec 16) (hready : ControlReady s) (hwf : configWf s.cfg = true)
    (hcls : s.cfg.cls = .msc) (hopen : c.classActive = true → EpUsable s.cfg.botInEp s ∧ EpUsable s.cfg.botOutEp s) :
    let u := configRecorded v (s.withCtl c)
    (leaveClass (s.withCtl c)).fault = none
      ∧ u = { s with eps := u.eps, hws := u.hws, ctl := { c with config := v, classActive := false }, bot := u.bot }
      ∧ { u.bot with state := .idle, zlp := false } = { s.bot with state := .idle, zlp := false }
      ∧ (∀ a, a = s.cfg.botInEp ∨ a = s.cfg.botOutEp → closeRecord (u.ep a) = closeRecord (s.ep a))
      ∧ OtherEpsKept [s.cfg.botInEp, s.cfg.botOutEp] s u := by
  cases hc : c.classActive with
  | false =>
    have hleft : leaveClass (s.withCtl c) = s.withCtl c := leaveClass_inactive_eq hc
    rw [configRecorded_inactive v hc, hleft]
    have hctl : { c with config := v } = { c with config := v, classActive := false } :=
      congrArg (fun b => { c with config := v, classActive := b }) hc
    exact ⟨hready.1.1, congrArg s.withCtl hctl, rfl, fun _ _ => rfl, fun _ _ => ⟨rfl, rfl⟩⟩
  | true =>
    obtain ⟨hi, ho⟩ := hopen hc
    obtain ⟨hf, uframe, uclosed, uothers⟩ := configRecorded_active v hwf hc hcls hi ho
    generalize configRecorded v (s.withCtl c) = u at uframe uclosed uothers
    have ubot : u.bot = { s.bot with state := .idle, zlp := false } := by rw [uframe]
    refine ⟨hf, by rw [ubot]; exact uframe, by rw [ubot], fun a ha => ?_, uothers⟩
    rw [(uclosed a ha).1]
    rfl

theorem enterClass_msc {s : State} (v : BitVec 16) (hcls : s.cfg.cls = .msc) (hf : (mscInit s).fault = none) :
    enterClass v s = (mscInit s).modCtl (fun c => { c with classActive := true, devState := .configured }) := by
  rw [enterClass, classInit, hcls]
  exact andThen_running hf _

/-- Settles O39: the value is recorded with no class active, the class is entered as `mscInit_enters` says, and the status
is sent. -/
theorem setConfigurationEntersClass : Obligations.SetConfigurationEntersClass := by
  intro s dir v i l hready hwf hcls hd h0 hv hopen hp
  refine ⟨_, exec_recording (f := deviceSetConfiguration v) rfl (fun _ => rfl) hready.1.1, ?_⟩
  have hd' : (recorded (.setConfiguration dir v i l) s.ctl).devState ≠ .default := hd
  have hopen' : (recorded (.setConfiguration dir v i l) s.ctl).classActive = true → _ := hopen
  generalize recorded (.setConfiguration dir v i l) s.ctl = c at hd' hopen' ⊢
  obtain ⟨hf, uframe, ubot, uclosed, uothers⟩ := configRecorded_msc v hready hwf hcls hopen'
  rw [deviceSetConfiguration_enters (s := s.withCtl c) hd' hv hf h0]
  generalize configRecorded v (s.withCtl c) = u at uframe ubot uclosed uothers
  obtain ⟨E, H, B, rfl⟩ : ∃ E H B, u = { s with
      eps := E, hws := H, ctl := { c with config := v, classActive := false }, bot := B } := ⟨_, _, _, uframe⟩
  set u : State := { s with eps := E, hws := H, ctl := { c with config := v, classActive := false }, bot := B }
  obtain ⟨wf, winEp, winHw, woutEp, woutHw, wnext, wframe, wothers⟩ := mscInit_enters (s := u) hready.1.1 hwf hp
  rw [enterClass_msc (s := u) v hcls wf, andThen_running (by exact wf)]
  generalize mscInit u = w at wf winEp winHw woutEp woutHw wnext wframe wothers
  have hothers := otherEpsKept_trans uothers wothers
  obtain ⟨tf, tposted, tctl, tframe, tkept, tothers⟩ := ctlStatus_after
    (u := w.modCtl fun c => { c with classActive := true, devState := .configured }) hready wf (by rw [wframe]; rfl)
    hothers (bulk_ne_control hwf rfl) (bulk_ne_control hwf rfl) (by rw [wframe]; exact fun _ => rfl)
  generalize ctlStatus _ = t at tf tposted tctl tframe tkept tothers
  obtain ⟨tinEp, tinHw⟩ := tkept s.cfg.botInEp (by simp)
  obtain ⟨toutEp, toutHw⟩ := tkept s.cfg.botOutEp (by simp)
  have hframe : t = { s with
      pmaNext := w.pmaNext, eps := t.eps, hws := t.hws, ctl := t.ctl, pma := t.pma,
      scsi := { s.scsi with
        medium := s.cfg.storageMedium.isSome, totalBlocks := s.cfg.storageMedium.getD 0,
        writeCapable := s.cfg.storageWrite, senseHead := 0, senseTail := 0, state := .ok },
      bot := { s.bot with state := .idle, zlp := false } } := by
    rw [← ubot]
    exact tframe.trans (congrArg (fun q : State => { q with eps := t.eps, hws := t.hws, ctl := t.ctl, pma := t.pma }) wframe)
  have tnext : t.pmaNext = w.pmaNext := (congrArg State.pmaNext hframe :)
  have tscsi := congrArg State.scsi hframe
  have tbot := congrArg State.bot hframe
  refine ⟨tf, ?_, ?_, tinHw.trans winHw, ?_, toutHw.trans woutHw, tnext.trans wnext, tscsi, tbot, tposted, ?_, tothers⟩
  · rw [tctl, modCtl_ctl, wframe]
  · exact tinEp.trans (winEp.trans (bulkRecord_congr (uclosed _ (.inl rfl))))
  · refine toutEp.trans (woutEp.trans ?_)
    rw [bulkRecord_congr (uclosed _ (.inr rfl))]
    rfl
  · rw [tnext, show t.scsi = _ from tscsi, show t.bot = _ from tbot]
    exact hframe

end Sys2Proof.Proofs
end

section
/-!
PROOFS of the mass-storage family (42_bot_scsi): the SCSI commands and the block pipeline, the CBW, the two class requests, and what the
sequencer does at the end of a bulk transfer.
-/

namespace Sys2Proof.Proofs

open Sys2Proof.Machine

/-! ## Commands that set a result, respond or fail (R262, R263, R272-R281, R284, R285) -/

/-- A command that ends in a push and Error has failed with that entry. -/
theorem command_fails {s : State} {f : State → State} {e : Sense} (hf : s.fault = none) (hp : PushAllowed s)
    (h : f s = failWith e s) : ∃ t, agentStep s f = .next t ∧ ScsiFailed e.1 e.2 s t :=
  ⟨_, agentStep_answers hf h, failWith_spec hf hp⟩

/-- A command that ends in a response replies with it. -/
theorem command_replies {s : State} {f : State → State} {out : List Byte} (hf : s.fault = none) (h : f s = respond out s) :
    ∃ t, agentStep s f = .next t ∧ ScsiReplied out s.scsi.senseTail s t :=
  ⟨_, agentStep_answers hf h, respond_spec⟩

theorem sensePending_iff (c : Scsi) : sensePending c = true ↔ c.senseHead ≠ c.senseTail := by simp [sensePending]

/-- REQUEST SENSE with nothing pending: the response of no entry, and the ring is as it was (R274). -/
theorem requestSense_empty {s : State} (h : s.scsi.senseHead = s.scsi.senseTail) :
    requestSense s = respond (List.replicate 18 0) s := by
  have hnone : ¬ sensePending s.scsi = true := fun hp => (sensePending_iff _).mp hp h
  have hpop : s.modScsi sensePopped = s := by rw [State.modScsi, sensePopped, if_neg hnone]
  rw [requestSense, hpop, senseOldest, if_neg hnone, senseResponse]

/-- REQUEST SENSE with an entry pending pops the oldest (R274). -/
theorem requestSense_pending {s : State} (h : s.scsi.senseHead ≠ s.scsi.senseTail) :
    requestSense s = respond
      (senseResponse (some (s.scsi.senseKey[s.scsi.senseTail.val]'s.scsi.senseTail.isLt,
        s.scsi.senseAsc[s.scsi.senseTail.val]'s.scsi.senseTail.isLt)))
      (s.modScsi (fun c => { c with senseTail := c.senseTail + 1 })) := by
  have hsome : sensePending s.scsi = true := (sensePending_iff _).mpr h
  rw [requestSense, senseOldest, if_pos hsome, State.modScsi, sensePopped, if_pos hsome]
  rfl

/-- The range of a block command is past the medium where its unwrapped sum is (R282-R284). -/
theorem outOfRange_iff {lba : BitVec 32} {count : BitVec 16} {s : State} :
    outOfRange lba count s = true ↔ s.scsi.totalBlocks < lba.toNat + count.toNat := decide_eq_true_iff

theorem outOfRange_eq_false {lba : BitVec 32} {count : BitVec 16} {s : State}
    (h : lba.toNat + count.toNat ≤ s.scsi.totalBlocks) : outOfRange lba count s = false :=
  decide_eq_false (Nat.not_lt.mpr h)

/-- Settles O45: each command is a `respond`, or fails for want of a medium. -/
theorem scsiResponsesComplete : Obligations.ScsiResponsesComplete := by
  intro s hf
  refine ⟨command_replies hf rfl, command_replies hf rfl, command_replies hf rfl,
    ⟨_, agentStep_running hf _, fun h => ?_, fun h => ?_⟩, fun hm => ⟨?_, ?_⟩, fun hm hp i hi => ?_⟩
  · rw [requestSense_empty h]
    exact respond_spec
  · rw [requestSense_pending h]
    exact respond_spec (s := s.modScsi fun c => { c with senseTail := c.senseTail + 1 })
  · exact command_replies hf (by simp [readCapacity10, hm, capacityResponse]; rfl)
  · exact command_replies hf (by simp [readFormatCapacities, hm, formatCapacityResponse]; rfl)
  · rcases hi with rfl | rfl
    · exact command_fails (e := sNoMedium) hf hp (by simp [readCapacity10, hm])
    · exact command_fails (e := sNoMedium) hf hp (by simp [readFormatCapacities, hm])

/-- Settles O46: the result Ok, or the entry of the check that fails. -/
theorem scsiNoDataCommandsComplete : Obligations.ScsiNoDataCommandsComplete := by
  intro s lba count hf
  refine ⟨fun i hi => ?_, fun hm => ?_, fun hm hr => ?_, fun hp hm i hi => ?_, fun hp hm hr => ?_⟩
  · rcases hi with rfl | rfl <;> exact agentStep_running hf _
  · have hok : testUnitReady s = finish .ok s := by simp [testUnitReady, hm]
    exact agentStep_answers hf hok
  · have hok : verify10 lba count s = finish .ok s := by simp [verify10, hm, outOfRange_eq_false hr]
    exact agentStep_answers hf hok
  · rcases hi with rfl | rfl
    · exact command_fails (e := sNoMedium) hf hp (by simp [testUnitReady, hm])
    · exact command_fails (e := sNoMedium) hf hp (by simp [verify10, hm])
  · exact command_fails (e := sOutOfRange) hf hp (by simp [verify10, hm, outOfRange_iff.mpr hr])

/-- A push that fills the ring under the FAULT policy: the entry is written and the machine stops (R263). -/
theorem failWith_overflow {e : Sense} {s : State} (hf : s.fault = none) (h : ¬ PushAllowed s) :
    failWith e s = { s with fault := some .senseOverflow, scsi := sensePushed e s.scsi } := by
  simp only [PushAllowed, not_or, not_not] at h
  obtain ⟨hwrap, hfull⟩ := h
  have hpolicy : s.cfg.senseOverflow = .fault := by
    cases hs : s.cfg.senseOverflow with
    | fault => rfl
    | wrap => exact absurd hs hwrap
  have hempty : sensePending (sensePushed e s.scsi) = false := by simp [sensePending, sensePushed, hfull]
  have hpush : sensePush e s = (s.modScsi (sensePushed e)).raise .senseOverflow := if_pos ⟨hpolicy, hempty⟩
  rw [failWith, hpush, raise_andThen, raise_running (by exact hf)]
  rfl

/-- Settles O47: the push of INVALID OPCODE, in the ring's two cases. -/
theorem unsupportedOpcodeFails : Obligations.UnsupportedOpcodeFails := by
  intro s o hf
  refine ⟨fun hp => command_fails (e := sInvalidOpcode) hf hp rfl, fun hp => ?_⟩
  exact ⟨_, agentStep_answers hf (failWith_overflow (e := sInvalidOpcode) hf hp), rfl, rfl⟩

/-! ## The block pipeline (R264, R286, R287) -/

/-- `work` after a write of 512 bytes: the bytes are there, every later byte is as before. -/
theorem work_written {s t : State} {bytes : List Byte} (hw : t.scsi.work = memWrite s.scsi.work 0 bytes)
    (he : t.epoch = s.epoch) (hl : bytes.length = 512) :
    (∀ j (h : j < bytes.length), bufByte t .work j = bytes[j]) ∧ (∀ j, 512 ≤ j → bufByte t .work j = bufByte s .work j) := by
  simp only [bufByte_work, hw, he]
  refine ⟨fun j h => ?_, fun j hj => ?_⟩
  · simpa using byteOf_memWrite_in .work s.epoch s.scsi.work 0 bytes h
  · exact byteOf_memWrite_out _ _ _ _ _ (.inr (by omega))

section Pipeline

variable {s : State} {rest : List Bool} (hblk : s.scsi.blkAddr < s.scsi.totalBlocks)

include hblk

/-- The storage answers a read: the block is in `work`, and the next one is next (R286). -/
theorem readNext_reads (ha : s.answers = true :: rest) :
    readNext s = { s with
        answers := rest,
        scsi := { s.scsi with
          work := (readNext s).scsi.work, blkAddr := s.scsi.blkAddr + 1, blkLen := s.scsi.blkLen - 1,
          state := if s.scsi.blkLen - 1 = 0 then .lastDataIn else .dataIn } }
      ∧ (∀ j, j < 512 → bufByte (readNext s) .work j = storageByte s (512 * s.scsi.blkAddr + j))
      ∧ (∀ j, 512 ≤ j → bufByte (readNext s) .work j = bufByte s .work j) := by
  have key : readNext s = { s with
      answers := rest,
      scsi := { s.scsi with
        work := memWrite s.scsi.work 0 (storageBlock s s.scsi.blkAddr), blkAddr := s.scsi.blkAddr + 1,
        blkLen := s.scsi.blkLen - 1, state := if s.scsi.blkLen - 1 = 0 then .lastDataIn else .dataIn } } := by
    rw [readNext, if_neg (Nat.not_le.mpr hblk), nextAnswer, useAnswer, ha]
    rfl
  have hlen : (storageBlock s s.scsi.blkAddr).length = 512 := by simp [storageBlock]
  obtain ⟨hin, hout⟩ := work_written (s := s) (t := readNext s) (by rw [key]) (by rw [key]) hlen
  refine ⟨by rw [key], fun j hj => ?_, hout⟩
  rw [hin j (by rwa [hlen])]
  simp [storageBlock]

/-- The storage fails a read: its bytes are unspecified, the failure is pushed (R286, R264). -/
theorem readNext_fails (ha : s.answers = false :: rest) (hf : s.fault = none) (hp : PushAllowed s) :
    ScsiFailed 0x04 0x11
        { s with answers := rest, draws := s.draws + 1, scsi := { s.scsi with work := (readNext s).scsi.work } } (readNext s)
      ∧ (∀ j, 512 ≤ j → bufByte (readNext s) .work j = bufByte s .work j) := by
  have key : readNext s = failWith sReadFail { s with
      answers := rest, draws := s.draws + 1, scsi := { s.scsi with work := memWrite s.scsi.work 0 (junkBlock s) } } := by
    rw [readNext, if_neg (Nat.not_le.mpr hblk), nextAnswer, useAnswer, ha]
    rfl
  have hleft := key.trans (failWith_eq (by exact hf) (by exact hp))
  have hwork : (readNext s).scsi.work = memWrite s.scsi.work 0 (junkBlock s) := by rw [hleft]; rfl
  have hepoch : (readNext s).epoch = s.epoch := by rw [hleft]; rfl
  refine ⟨?_, (work_written hwork hepoch (by simp [junkBlock])).2⟩
  rw [hwork, key]
  exact failWith_spec (e := sReadFail) (by exact hf) (by exact hp)

/-- The storage answers a write: the block holds the bytes of `work`, and the next one is next (R287). -/
theorem writeNext_writes (ha : s.answers = true :: rest) :
    writeNext s = { s with
        blocks := (writeNext s).blocks, answers := rest,
        scsi := { s.scsi with blkAddr := s.scsi.blkAddr + 1, blkLen := s.scsi.blkLen - 1,
                              state := if s.scsi.blkLen - 1 = 0 then .ok else .dataOut } }
      ∧ (∀ j, j < 512 → storageByte (writeNext s) (512 * s.scsi.blkAddr + j) = bufByte s .work j)
      ∧ (∀ a, a < 512 * s.scsi.blkAddr ∨ 512 * s.scsi.blkAddr + 512 ≤ a → storageByte (writeNext s) a = storageByte s a) := by
  have key : writeNext s = { s with
      blocks := (setStorageBlock s.scsi.blkAddr (bufRead s .work 0 512) s).blocks, answers := rest,
      scsi := { s.scsi with blkAddr := s.scsi.blkAddr + 1, blkLen := s.scsi.blkLen - 1,
                            state := if s.scsi.blkLen - 1 = 0 then .ok else .dataOut } } := by
    rw [writeNext, if_neg (Nat.not_le.mpr hblk), nextAnswer, useAnswer, ha]
    rfl
  have hbyte (a : Nat) : storageByte (writeNext s) a
      = storageByte (setStorageBlock s.scsi.blkAddr (bufRead s .work 0 512) s) a := by rw [key]; rfl
  refine ⟨by rw [key], fun j hj => ?_, fun a ha => ?_⟩
  · rw [hbyte, storageByte_setStorageBlock, bufRead_length, if_pos (by omega)]
    simp [bufRead, hj]
  · rw [hbyte, storageByte_setStorageBlock, bufRead_length, if_neg (by omega)]

/-- The storage fails a write: the block may hold anything, the failure is pushed (R287, R264). -/
theorem writeNext_fails (ha : s.answers = false :: rest) (hf : s.fault = none) (hp : PushAllowed s) :
    ScsiFailed 0x04 0x03 { s with blocks := (writeNext s).blocks, answers := rest, draws := s.draws + 1 } (writeNext s)
      ∧ (∀ a, a < 512 * s.scsi.blkAddr ∨ 512 * s.scsi.blkAddr + 512 ≤ a → storageByte (writeNext s) a = storageByte s a) := by
  have key : writeNext s = failWith sWriteFail { s with
      blocks := (setStorageBlock s.scsi.blkAddr (junkBlock s) s).blocks, answers := rest, draws := s.draws + 1 } := by
    rw [writeNext, if_neg (Nat.not_le.mpr hblk), nextAnswer, useAnswer, ha]
    rfl
  have hleft := key.trans (failWith_eq (by exact hf) (by exact hp))
  have hblocks : (writeNext s).blocks = (setStorageBlock s.scsi.blkAddr (junkBlock s) s).blocks := by rw [hleft]; rfl
  have hcfg : (writeNext s).cfg = s.cfg := by rw [hleft]; rfl
  refine ⟨?_, fun a ha => ?_⟩
  · rw [hblocks, key]
    exact failWith_spec (e := sWriteFail) (by exact hf) (by exact hp)
  · have hbyte : storageByte (writeNext s) a = storageByte (setStorageBlock s.scsi.blkAddr (junkBlock s) s) a := by
      rw [storageByte, hblocks, hcfg]
      rfl
    rw [hbyte, storageByte_setStorageBlock, if_neg (by simp [junkBlock]; omega)]

end Pipeline

/-! ## READ(10) and WRITE(10) (R282, R283) -/

/-- Settles O48: the entry of the first check that fails, then `readNext` from the first block. -/
theorem read10Completes : Obligations.Read10Completes := by
  intro s lba count hf
  have hfails {e : Sense} (hp : PushAllowed s) (h : read10 lba count s = failWith e s) :
      ∃ t, exec (.read10 lba count) s = .next t ∧ ScsiFailed e.1 e.2 s t := command_fails hf hp h
  refine ⟨fun hp (hd : isDataIn s = false) => hfails (e := sInvalidField) hp (by simp [read10, hd]),
    fun (hd : isDataIn s = true) => ⟨fun hp hm => hfails (e := sNoMedium) hp (by simp [read10, hd, hm]),
    fun hm => ⟨fun hp hr => hfails (e := sOutOfRange) hp (by simp [read10, hd, hm, outOfRange_iff.mpr hr]), fun hr => ?_⟩⟩⟩
  have hrange := outOfRange_eq_false hr
  refine ⟨fun hp hl => hfails (e := sInvalidField) hp (by simp [read10, hd, hm, hrange, hl]), fun hl => ?_⟩
  have hrun : exec (.read10 lba count) s = .next (if count = 0 then finish .ok s else readNext (setBlocks lba count s)) :=
    agentStep_answers hf (by simp [read10, hd, hm, hrange, hl])
  have hpos (h0 : count ≠ 0) : 0 < count.toNat := by bv_omega
  have hblk (h0 : count ≠ 0) : (setBlocks lba count s).scsi.blkAddr < (setBlocks lba count s).scsi.totalBlocks := by
    have := hpos h0
    simp only [setBlocks, modScsi_scsi]
    omega
  refine ⟨fun h0 => ?_, fun rest h0 ha => ?_, fun rest hp h0 ha => ?_⟩
  · rw [hrun, if_pos h0]
    rfl
  · obtain ⟨hframe, hin, hout⟩ := readNext_reads (hblk h0) (rest := rest) ha
    have hlast : (setBlocks lba count s).scsi.blkLen - 1 = 0 ↔ count = 1 := by
      have := hpos h0
      simp only [setBlocks, modScsi_scsi]
      bv_omega
    rw [if_neg h0] at hrun
    refine ⟨_, hrun, hin, hout, ?_⟩
    simp only [hlast] at hframe
    exact hframe
  · rw [if_neg h0] at hrun
    obtain ⟨hfailed, hout⟩ := readNext_fails (hblk h0) (rest := rest) ha hf hp
    exact ⟨_, hrun, hout, hfailed⟩

/-- Settles O49: the entry of the first check that fails, else the blocks are set. -/
theorem write10Completes : Obligations.Write10Completes := by
  intro s lba count hf
  have hfails {e : Sense} (hp : PushAllowed s) (h : write10 lba count s = failWith e s) :
      ∃ t, exec (.write10 lba count) s = .next t ∧ ScsiFailed e.1 e.2 s t := command_fails hf hp h
  refine ⟨fun hp (hd : isDataIn s = true) => hfails (e := sInvalidField) hp (by simp [write10, hd]),
    fun (hd : isDataIn s = false) => ⟨fun hp hm => hfails (e := sNoMedium) hp (by simp [write10, hd, hm]),
    fun hm => ⟨fun hp hr => hfails (e := sOutOfRange) hp (by simp [write10, hd, hm, outOfRange_iff.mpr hr]), fun hr => ?_⟩⟩⟩
  have hrange := outOfRange_eq_false hr
  refine ⟨fun hp hl => hfails (e := sInvalidField) hp (by simp [write10, hd, hm, hrange, hl]), fun hl =>
    ⟨fun hp hw => hfails (e := sWriteProtect) hp (by simp [write10, hd, hm, hrange, hl, hw]), fun hw => ?_⟩⟩
  have hrun : exec (.write10 lba count) s
      = .next (if count = 0 then finish .ok s else finish .dataOut (setBlocks lba count s)) :=
    agentStep_answers hf (by simp [write10, hd, hm, hrange, hl, hw])
  refine ⟨fun h0 => ?_, fun h0 => ?_⟩
  · rw [hrun, if_pos h0]
    rfl
  · rw [hrun, if_neg h0]
    rfl
/-! ## The CBW (R266, R267) -/

/-- Settles O50: the two stalls, then the state of the sequencer. -/
theorem malformedCbwStalls : Obligations.MalformedCbwStalls := by
  intro s bytes hi ho hne
  obtain ⟨⟨hinEp, hinHw⟩, uf, uframe, uothers, -⟩ := epStall_spec hi
  obtain ⟨houtEp, houtHw⟩ := uothers s.cfg.botOutEp (by simp [hne.symm])
  refine ⟨_, agentStep_answers hi.1 (cbwReject_eq hi ho hne), ?_⟩
  obtain ⟨⟨tep, thw⟩, -, tframe, tothers, -⟩ := epStall_spec (usable_kept ho uf (by rw [uframe]) houtEp)
  obtain ⟨E, H, hu⟩ := tables_of_frame uframe
  generalize epStall s.cfg.botInEp s = u at *
  subst hu
  obtain ⟨kinEp, kinHw⟩ := tothers s.cfg.botInEp (by simpa using hne)
  obtain ⟨E', H', ht⟩ := tables_of_frame tframe
  generalize epStall s.cfg.botOutEp _ = t at *
  subst ht
  exact ⟨⟨kinEp.trans hinEp, kinHw.trans hinHw⟩, ⟨tep.trans (by rw [houtEp]), thw.trans (by rw [houtHw])⟩, rfl,
    onlyEps_of_frame rfl
      (otherEpsKept_trans (otherEpsKept_mono uothers (by simp)) (otherEpsKept_mono tothers (by simp)))⟩

/-! ## What a command leaves alone (R272) -/

/-- Only the SCSI context, the storage, the draws and the sticky fault may differ. -/
def CommandKept (s t : State) : Prop :=
  t = { s with fault := t.fault, scsi := t.scsi, blocks := t.blocks, answers := t.answers, draws := t.draws }

namespace CommandKept

theorem trans {s t u : State} (h₁ : CommandKept s t) (h₂ : CommandKept t u) : CommandKept s u :=
  Eq.trans h₂ (congrArg (fun q : State => { q with
    fault := u.fault, scsi := u.scsi, blocks := u.blocks, answers := u.answers, draws := u.draws }) h₁)

theorem andThen {s t : State} {f : State → State} (h₁ : CommandKept s t) (h₂ : CommandKept t (f t)) :
    CommandKept s (t.andThen f) := by
  rcases andThen_cases t f with ⟨-, -, h⟩ | ⟨-, h⟩
  · rwa [h]
  · rw [h]
    exact h₁.trans h₂

theorem raise (s : State) (r : FaultReason) : CommandKept s (s.raise r) := by
  rw [raise_eq]
  rfl

theorem finish (r : ScsiState) (s : State) : CommandKept s (finish r s) := rfl

theorem respond (out : List Byte) (s : State) : CommandKept s (respond out s) := rfl

theorem failWith (e : Sense) (s : State) : CommandKept s (failWith e s) := by
  refine andThen ?_ (finish _ _)
  dsimp only [sensePush]
  split
  · exact trans (t := s.modScsi (sensePushed e)) rfl (raise _ _)
  · rfl

theorem useAnswer (s : State) : CommandKept s (useAnswer s) := by
  unfold Machine.useAnswer
  split <;> rfl

theorem readNext (s : State) : CommandKept s (readNext s) := by
  unfold Machine.readNext
  split
  · exact raise _ _
  · refine (useAnswer s).trans ?_
    split
    · rfl
    · exact trans (t := useDraw (bufWrite .work 0 (junkBlock (Machine.useAnswer s)) (Machine.useAnswer s))) rfl (failWith _ _)

theorem read10 (lba : BitVec 32) (count : BitVec 16) (s : State) : CommandKept s (read10 lba count s) := by
  unfold Machine.read10
  split_ifs
  · exact failWith _ _
  · exact failWith _ _
  · exact failWith _ _
  · exact failWith _ _
  · exact finish _ _
  · exact trans (t := setBlocks lba count s) rfl (readNext _)

theorem write10 (lba : BitVec 32) (count : BitVec 16) (s : State) : CommandKept s (write10 lba count s) := by
  unfold Machine.write10
  split_ifs
  · exact failWith _ _
  · exact failWith _ _
  · exact failWith _ _
  · exact failWith _ _
  · exact failWith _ _
  · exact finish _ _
  · rfl

theorem verify10 (lba : BitVec 32) (count : BitVec 16) (s : State) : CommandKept s (verify10 lba count s) := by
  unfold Machine.verify10
  split_ifs
  · exact failWith _ _
  · exact failWith _ _
  · exact finish _ _

/-- A command that fails without a medium, and else does `f`. -/
theorem ifMedium {f : State → State} {s : State} (h : CommandKept s (f s)) :
    CommandKept s (if !s.scsi.medium then Machine.failWith sNoMedium s else f s) := by
  split
  · exact failWith _ _
  · exact h

/-- Every command writes no more than these. -/
theorem processCommand (i : Instr) (s : State) : CommandKept s (processCommand i s) := by
  cases i with
  | testUnitReady => exact ifMedium (finish _ _)
  | requestSense => exact trans (t := s.modScsi sensePopped) rfl (respond _ _)
  | inquiry | modeSense6 | modeSense10 => exact respond _ _
  | startStopUnit | preventAllowMediumRemoval => exact finish _ _
  | readFormatCapacities => exact ifMedium (respond _ _)
  | readCapacity10 => exact ifMedium (respond _ _)
  | read10 lba count => exact read10 lba count s
  | write10 lba count => exact write10 lba count s
  | verify10 lba count => exact verify10 lba count s
  | _ => exact failWith _ _

end CommandKept

/-- The meaning of the row a CDB decodes to is its command (R272). -/
theorem exec_decodeCdb (cdb : Vector Byte 16) (s : State) :
    exec (decodeCdb cdb) s = agentStep s (processCommand (decodeCdb cdb)) := by
  unfold decodeCdb
  split <;> rfl

/-! ## Data and status stages (R268, R269) -/

/-- What a data or status stage to the host needs: bulk IN is open, an IN endpoint, and its region lies in packet memory. -/
def BulkInReady (s : State) : Prop :=
  EpUsable s.cfg.botInEp s ∧ s.cfg.botInEp.isIn = true ∧ RegionFits s.cfg.botInEp s

theorem BulkInReady.of_same {s t : State} (h : BulkInReady s) (hf : t.fault = none) (hc : t.cfg = s.cfg)
    (he : t.ep s.cfg.botInEp = s.ep s.cfg.botInEp) (hh : t.hw s.cfg.botInEp = s.hw s.cfg.botInEp) : BulkInReady t := by
  obtain ⟨husable, hin, hfits⟩ := h
  rw [BulkInReady, RegionFits, inRegion, hc, he, hh]
  exact ⟨usable_kept husable hf hc he, hin, hfits⟩

/-- A transfer of `n` bytes of `buf` is posted on bulk IN, its first packet loaded, and the sequencer is `b`. -/
def BulkInPosted (buf : BufRef) (n : Nat) (b : Bot) (s t : State) : Prop :=
  WritePosted s.cfg.botInEp buf n s t ∧ t.bot = b
    ∧ t = { s with eps := t.eps, hws := t.hws, bot := t.bot, pma := t.pma } ∧ OtherEpsKept [s.cfg.botInEp] s t

theorem epWrite_bulkIn {s : State} {buf : BufRef} {n : Nat} (h : BulkInReady s) (hfit : readFits s.cfg buf n = true)
    (f : Bot → Bot) : BulkInPosted buf n (f s.bot) s (epWrite s.cfg.botInEp buf n (s.modBot f)) := by
  obtain ⟨husable, hin, hregion⟩ := h
  obtain ⟨hposted, -, hframe, hothers⟩ := epWrite_spec (s := s.modBot f) (buf := buf) (len := n) husable hin hfit hregion
  have hbot : (epWrite s.cfg.botInEp buf n (s.modBot f)).bot = f s.bot := (congrArg State.bot hframe :)
  refine ⟨hposted, hbot, ?_, hothers⟩
  rw [hbot]
  exact hframe

/-- A read of `n` bytes into `buf` is posted on bulk OUT, and the sequencer is `b`. -/
def BulkOutPosted (buf : BufRef) (n : Nat) (b : Bot) (s t : State) : Prop :=
  ReadPosted s.cfg.botOutEp buf n s t ∧ t.bot = b ∧ OnlyEps [s.cfg.botOutEp] { s with bot := t.bot } t

theorem epRead_bulkOut {s : State} {buf : BufRef} {n : Nat} (h : EpUsable s.cfg.botOutEp s) (hd : s.cfg.botOutEp.isIn = false)
    (hfit : writeFits s.cfg buf n = true) (f : Bot → Bot) :
    BulkOutPosted buf n (f s.bot) s (epRead s.cfg.botOutEp buf n (s.modBot f))
      ∧ (epRead s.cfg.botOutEp buf n (s.modBot f)).fault = none := by
  obtain ⟨hposted, hf, honly⟩ := epRead_spec (s := s.modBot f) (buf := buf) (len := n) h hd hfit
  have hbot : (epRead s.cfg.botOutEp buf n (s.modBot f)).bot = f s.bot := (congrArg State.bot honly.1 :)
  refine ⟨⟨hposted, hbot, ?_⟩, hf⟩
  rw [hbot]
  exact honly

/-- A CBW read is posted (R261). -/
theorem postCbwRead_posts {s : State} (h : EpUsable s.cfg.botOutEp s) (hd : s.cfg.botOutEp.isIn = false) :
    BulkOutPosted .cbw (max s.cfg.botMps 32) { s.bot with state := .idle } s (postCbwRead s) ∧ (postCbwRead s).fault = none :=
  epRead_bulkOut h hd (by simp [writeFits, arrayWritable, arraySize, cbwReadLen]) fun b => { b with state := .idle }

theorem BulkInReady.sendCsw {s : State} (h : BulkInReady s) (status : Byte) : CswSent status s (sendCsw status s) :=
  sendCsw_spec status h.1 h.2.1 h.2.2

section Results

variable {s : State} (h : BulkInReady s)

include h

theorem handleResult_ok (hst : s.scsi.state = .ok) : CswSent 0x00 s (handleResult s) := by
  rw [handleResult, hst]
  exact h.sendCsw 0x00

theorem handleResult_error (hst : s.scsi.state = .error) : CswSent 0x01 s (handleResult s) := by
  rw [handleResult, hst]
  exact h.sendCsw 0x01

/-- A response cut to nothing has no data stage (R268). -/
theorem handleResult_sendNothing (hst : s.scsi.state = .sendData) (hn : min s.scsi.respLen s.bot.dataLength = 0) :
    CswSent 0x00 s (handleResult s) := by
  rw [handleResult, hst]
  simp only [sendResponse, if_pos hn]
  exact h.sendCsw 0x00

/-- The data stage of a response, cut to the CBW's length, with the ZLP it owes (R268). -/
theorem handleResult_sendData (hst : s.scsi.state = .sendData) (hpos : 0 < min s.scsi.respLen s.bot.dataLength)
    (hle : min s.scsi.respLen s.bot.dataLength ≤ 512) :
    BulkInPosted .work (min s.scsi.respLen s.bot.dataLength)
      { s.bot with state := .dataSend,
                   zlp := botZlpNeeded s.cfg s.bot.dataLength (min s.scsi.respLen s.bot.dataLength) } s (handleResult s) := by
  have hfit : readFits s.cfg .work (min s.scsi.respLen s.bot.dataLength) = true :=
    decide_eq_true (.inr (by simpa [arraySize] using hle))
  rw [handleResult, hst]
  simp only [sendResponse, if_neg hpos.ne']
  exact epWrite_bulkIn h hfit fun b =>
    { b with zlp := botZlpNeeded s.cfg b.dataLength (min s.scsi.respLen s.bot.dataLength), state := .dataSend }

/-- A block in `work` is sent (R268). -/
theorem handleResult_dataIn (hst : s.scsi.state = .dataIn ∨ s.scsi.state = .lastDataIn) :
    BulkInPosted .work 512 { s.bot with state := if s.scsi.state = .dataIn then .dataIn else .dataInLast } s (handleResult s) := by
  have hfit : readFits s.cfg .work 512 = true := by simp [readFits, arraySize]
  rcases hst with hst | hst
  · rw [handleResult, hst]
    exact epWrite_bulkIn h hfit fun b => { b with state := .dataIn }
  · rw [handleResult, hst]
    exact epWrite_bulkIn h hfit fun b => { b with state := .dataInLast }

omit h

/-- A block is awaited (R268). -/
theorem handleResult_dataOut (ho : EpUsable s.cfg.botOutEp s) (hd : s.cfg.botOutEp.isIn = false)
    (hst : s.scsi.state = .dataOut) : BulkOutPosted .work 512 { s.bot with state := .dataOut } s (handleResult s) := by
  rw [handleResult, hst]
  exact (epRead_bulkOut ho hd (by simp [writeFits, arrayWritable, arraySize]) fun b => { b with state := .dataOut }).1

end Results

/-- A command that has failed is reported in the CSW (R268, R269). -/
theorem handleResult_failed {key asc : Byte} {s t : State} (h : ScsiFailed key asc s t) (hs : BulkInReady s) :
    CswSent 0x01 t (t.andThen handleResult) := by
  obtain ⟨hframe, -, -⟩ := h
  have hf : t.fault = none := by rw [hframe]; exact hs.1.1
  have hready : BulkInReady t := hs.of_same hf (by rw [hframe]) (by rw [hframe]; rfl) (by rw [hframe]; rfl)
  rw [andThen_running hf]
  exact handleResult_error hready (by rw [hframe])

/-- Settles O51: the command leaves the endpoints and the sequencer alone, so its result is handled in the state it leaves. -/
theorem cbwRunsItsCommand : Obligations.CbwRunsItsCommand := by
  rintro s tag len flags n cdb ⟨hi, ho, hin, hout, hregion⟩
  refine ⟨_, _, (exec_decodeCdb cdb _).trans (agentStep_running (s := acceptFields tag len flags s) hi.1 _),
    agentStep_running hi.1 _, ?_⟩
  have hkept := CommandKept.processCommand (decodeCdb cdb) (acceptFields tag len flags s)
  rw [cbwAccept]
  generalize processCommand (decodeCdb cdb) (acceptFields tag len flags s) = u at hkept
  obtain ⟨F, S, B, A, D, rfl⟩ : ∃ F S B A D, u = { s with
      bot := { s.bot with tag := tag, dataLength := len.toNat, flags := flags, residue := len.toNat, zlp := false },
      fault := F, scsi := S, blocks := B, answers := A, draws := D } := ⟨_, _, _, _, _, hkept⟩
  refine ⟨fun hf => ?_, fun hf => ?_⟩
  · obtain ⟨r, hr⟩ := Option.ne_none_iff_exists'.mp hf
    exact andThen_faulted hr _
  · have hready : BulkInReady _ := BulkInReady.of_same (s := s) ⟨hi, hin, hregion⟩ hf rfl rfl rfl
    rw [andThen_running hf]
    exact ⟨handleResult_ok hready, handleResult_error hready, handleResult_sendNothing hready,
      handleResult_sendData hready, handleResult_dataIn hready, handleResult_dataOut ⟨hf, ho.2⟩ hout⟩

/-! ## The class requests (R265) -/

/-- The interface SETUP that carries a class request of the recipient Interface runs as that class request does: it records the same
session and forwards the same request (41 R237). -/
theorem exec_interfaceSetup {x : Instr} {d : Bool} {ty : BitVec 2} {r : Byte} {v i l : BitVec 16}
    (hx : encode x = classReqWord (BitVec.ofBool d ++ ty ++ 1#5) r v i l) (hdec : decodeClassReq (setupBytes d ty 1 r v i l) = x)
    {s : State} (hf : s.fault = none) :
    exec (.setupInterfaceForward d ty r v i l) s = .next (forward (requestOf x) x (s.withCtl (recorded x s.ctl))) := by
  have hbytes : (encode (.setupInterfaceForward d ty r v i l)).bytes = (encode x).bytes := by rw [hx]; rfl
  have hreq : setupBytes d ty 1 r v i l = requestOf x := (requestOf_classReq hx rfl).symm
  have hrec (c : Control) : recorded (.setupInterfaceForward d ty r v i l) c = recorded x c := by
    simp only [recorded, requestOf, lengthOf, hbytes]
  refine (exec_recording (f := forward _ (decodeClassReq _)) rfl (fun _ => rfl) hf).trans ?_
  rw [hrec, hdec, hreq]

/-- A class request that the mass-storage class handles, alone and in the interface SETUP that carries it: the class's function, then the
end of a handled request (R265; 41 R237). -/
theorem exec_mscRequest {x : Instr} {d : Bool} {ty : BitVec 2} {r : Byte} {v i l : BitVec 16}
    (henc : encode x = classReqWord (BitVec.ofBool d ++ ty ++ 1#5) r v i l)
    (hdec : decodeClassReq (setupBytes d ty 1 r v i l) = x)
    (hx : ∀ s, exec x s = agentStep s (fun s => forward (setupBytes d ty 1 r v i l) x (beginRequest (setupBytes d ty 1 r v i l) s)))
    {s t : State} (hf : s.fault = none) (hcls : s.cfg.cls = .msc) (hforwards : ForwardsToClass x s)
    (ht : mscSetup x (s.withCtl (recorded x s.ctl)) = (t, true)) :
    exec x s = .next (t.andThen (finishForward true))
      ∧ exec (.setupInterfaceForward d ty r v i l) s = .next (t.andThen (finishForward true)) := by
  have hclass : classSetup (requestOf x) x (s.withCtl (recorded x s.ctl)) = (t, true) := by
    rw [← ht, classSetup, modCtl_cfg, hcls]
  rw [exec_classReq henc rfl hx hf, exec_interfaceSetup henc hdec hf, forward_asks hforwards x hclass]
  exact ⟨rfl, rfl⟩

theorem decodeClassReq_getMaxLun (v i l : BitVec 16) : decodeClassReq (setupBytes true 1 1 0xFE v i l) = .getMaxLun v i l := by
  have h : decodeClassReq (setupBytes true 1 1 0xFE v i l) = .getMaxLun (le16 (octet v 0) (octet v 1))
      (le16 (octet i 0) (octet i 1)) (le16 (octet l 0) (octet l 1)) := rfl
  rw [h, le16_octets, le16_octets, le16_octets]

theorem decodeClassReq_massStorageReset (v i : BitVec 16) :
    decodeClassReq (setupBytes false 1 1 0xFF v i 0) = .bulkOnlyMassStorageReset v i := by
  have hother : ¬ ((setupBytes false 1 1 0xFF v i 0)[0] = 0xA1 ∧ (setupBytes false 1 1 0xFF v i 0)[1] = 0xFE) := fun h =>
    absurd (show (0x21 : Byte) = 0xA1 from h.1) (by decide)
  simp only [decodeClassReq]
  rw [if_neg hother, if_pos ⟨rfl, rfl, le16_octets 0⟩]
  exact congrArg₂ Instr.bulkOnlyMassStorageReset (le16_octets v) (le16_octets i)

/-- An answer has left the sub-state Setup, so nothing is added to it (R237). -/
theorem finishForward_answered {s t : State} {c : Control} {buf : BufRef} {full : List Byte} (h : Answered buf full c s t) :
    t.andThen (finishForward true) = t := by
  obtain ⟨hdata, hstatus, -⟩ := h
  have hleft : t.fault = none ∧ t.ctl.ctrlState ≠ .setup := by
    by_cases he : full.take c.ctrlLen = []
    · obtain ⟨-, hf, -, -, -, hctl⟩ := hstatus he
      exact ⟨hf, ne_of_eq_of_ne (congrArg Control.ctrlState hctl) (by simp)⟩
    · obtain ⟨-, hf, -, -, -, hctl⟩ := hdata he
      exact ⟨hf, ne_of_eq_of_ne (congrArg Control.ctrlState hctl) (by simp)⟩
  rw [andThen_running hleft.1, finishForward_handled, if_neg fun h => hleft.2 h.1]

/-- Settles O42: both rows end in CTL_SEND of the constant byte. -/
theorem getMaxLunCompletes : Obligations.GetMaxLunCompletes := by
  intro s v i l hready hcls hforwards
  obtain ⟨hrow, hsetup⟩ := exec_mscRequest rfl (decodeClassReq_getMaxLun v i l) (fun _ => rfl) hready.1.1 hcls hforwards rfl
  have hanswered : Answered .maxLun [0x00] (recorded (.getMaxLun v i l) s.ctl) s
      (ctlSend .maxLun 1 (s.withCtl (recorded (.getMaxLun v i l) s.ctl))) :=
    ctlSend_answers (full := [0x00]) _ hready rfl (by simp [readFits, arraySize]) rfl fun _ _ => rfl
  rw [finishForward_answered hanswered] at hrow hsetup
  exact ⟨_, hrow, hsetup, hanswered⟩

/-- A read posted where the endpoint's transfer has just been abandoned is posted as on the endpoint before. -/
theorem readPosted_of_abandoned {ep : EpAddr} {buf : BufRef} {len : Nat} {s u t : State}
    (hep : u.ep ep = { s.ep ep with active := false })
    (hhw : u.hw ep = { s.hw ep with ctr := false, stat := if (s.ep ep).stalled = true then (s.hw ep).stat else .nak })
    (h : ReadPosted ep buf len u t) : ReadPosted ep buf len s t := by
  obtain ⟨tep, thw⟩ := h
  rw [hep] at tep
  rw [armedStat, hep, hhw] at thw
  refine ⟨tep, thw.trans ?_⟩
  rw [armedStat]
  cases (s.ep ep).stalled <;> rfl

/-- Bulk-Only Mass Storage Reset in the class: bulk IN is abandoned, bulk OUT reads the next CBW (R265). -/
theorem massStorageReset_leaves {s : State} (ho : EpUsable s.cfg.botOutEp s) (hd : s.cfg.botOutEp.isIn = false)
    (hne : s.cfg.botInEp ≠ s.cfg.botOutEp) :
    (massStorageReset s).fault = none
      ∧ (massStorageReset s).ep s.cfg.botInEp = { s.ep s.cfg.botInEp with active := false }
      ∧ (massStorageReset s).hw s.cfg.botInEp = { s.hw s.cfg.botInEp with
          ctr := false, stat := if (s.ep s.cfg.botInEp).stalled = true then (s.hw s.cfg.botInEp).stat else .nak }
      ∧ ReadPosted s.cfg.botOutEp .cbw (max s.cfg.botMps 32) s (massStorageReset s)
      ∧ massStorageReset s = { s with
          eps := (massStorageReset s).eps, hws := (massStorageReset s).hws, bot := { s.bot with state := .idle, zlp := false } }
      ∧ OtherEpsKept [s.cfg.botInEp, s.cfg.botOutEp] s (massStorageReset s) := by
  obtain ⟨uinEp, uinHw, uothers⟩ := abandon_leaves s.cfg.botInEp s
  obtain ⟨voutEp, voutHw, vothers⟩ := abandon_leaves s.cfg.botOutEp (abandon s.cfg.botInEp s)
  obtain ⟨uoutEp, uoutHw⟩ := uothers s.cfg.botOutEp (by simpa using hne.symm)
  obtain ⟨vinEp, vinHw⟩ := vothers s.cfg.botInEp (by simpa using hne)
  rw [uoutEp] at voutEp voutHw
  rw [uoutHw] at voutHw
  have hopen : ((abandon s.cfg.botOutEp (abandon s.cfg.botInEp s)).ep s.cfg.botOutEp).isOpen = true := by
    rw [voutEp]
    exact ho.2.2
  obtain ⟨⟨hposted, tbot, tframe, tothers, -⟩, tf⟩ := postCbwRead_posts
    (s := (abandon s.cfg.botOutEp (abandon s.cfg.botInEp s)).modBot (fun b => { b with zlp := false })) ⟨ho.1, ho.2.1, hopen⟩ hd
  obtain ⟨tinEp, tinHw⟩ := tothers s.cfg.botInEp fun h => hne (List.mem_singleton.mp h)
  refine ⟨tf, tinEp.trans (vinEp.trans uinEp), tinHw.trans (vinHw.trans uinHw), readPosted_of_abandoned voutEp voutHw hposted,
    ?_, ?_⟩
  · rw [tbot] at tframe
    exact tframe
  · exact otherEpsKept_trans (otherEpsKept_mono uothers (by simp))
      (otherEpsKept_trans (otherEpsKept_mono vothers (by simp))
        (otherEpsKept_mono (l := [s.cfg.botOutEp]) tothers (by simp)))

/-- Settles O43: both rows reset the class on the recorded request, and the status is sent after it. -/
theorem massStorageResetCompletes : Obligations.MassStorageResetCompletes := by
  intro s v i hready hwf hcls hforwards ho
  obtain ⟨-, hd, -⟩ := configWf_bulk hwf
  obtain ⟨hrow, hsetup⟩ := exec_mscRequest rfl (decodeClassReq_massStorageReset v i) (fun _ => rfl) hready.1.1 hcls hforwards rfl
  have hlen : (recorded (.bulkOnlyMassStorageReset v i) s.ctl).ctrlLen = 0 := rfl
  have hstate : (recorded (.bulkOnlyMassStorageReset v i) s.ctl).ctrlState = .setup := rfl
  generalize recorded (.bulkOnlyMassStorageReset v i) s.ctl = c at *
  obtain ⟨uf, uinEp, uinHw, uposted, uframe, uothers⟩ := massStorageReset_leaves (s := s.withCtl c) ho hd (bulk_ne hwf)
  generalize massStorageReset (s.withCtl c) = u at *
  obtain ⟨E, H, rfl⟩ : ∃ E H, u = { s with
    eps := E, hws := H, ctl := c, bot := { s.bot with state := .idle, zlp := false } } := ⟨_, _, uframe⟩
  rw [andThen_running uf, finishForward_handled, if_pos ⟨hstate, hlen⟩] at hrow hsetup
  obtain ⟨tf, tposted, tctl, tframe, tkept, tothers⟩ := ctlStatus_after hready uf rfl uothers (bulk_ne_control hwf rfl)
    (bulk_ne_control hwf rfl) fun _ => rfl
  obtain ⟨tinEp, tinHw⟩ := tkept s.cfg.botInEp (by simp)
  obtain ⟨toutEp, toutHw⟩ := tkept s.cfg.botOutEp (by simp)
  have tbot := (congrArg State.bot tframe :)
  refine ⟨_, hrow, hsetup, tf, tinEp.trans uinEp, tinHw.trans uinHw, ⟨toutEp.trans uposted.1, toutHw.trans uposted.2⟩, tbot,
    tposted, tctl, ?_, tothers⟩
  rw [tbot]
  exact tframe

/-! ## The end of a bulk IN transfer (R270) -/

section BotIn

variable {n : Nat} {s : State}

theorem botInDone_dataSend (h : s.bot.state = .dataSend) : botInDone n s
    = if s.bot.zlp then epWriteZlp s.cfg.botInEp ((residueTaken n s).modBot (fun b => { b with zlp := false, state := .dataZlp }))
      else sendCsw 0x00 (residueTaken n s) := by
  rw [botInDone, h]
  rfl

theorem botInDone_dataZlp (h : s.bot.state = .dataZlp) : botInDone n s = sendCsw 0x00 s := by
  rw [botInDone, h]

theorem botInDone_dataIn (h : s.bot.state = .dataIn) (hst : s.scsi.state = .dataIn) :
    botInDone n s = (readNext (residueTaken n s)).andThen handleResult := by
  have hread : resumeCommand (residueTaken n s) = readNext (residueTaken n s) := by
    rw [resumeCommand, show (residueTaken n s).scsi.state = _ from hst]
  rw [botInDone, h, ← hread]
  rfl

theorem botInDone_dataInLast (h : s.bot.state = .dataInLast) : botInDone n s = sendCsw 0x00 (residueTaken n s) := by
  rw [botInDone, h]
  rfl

theorem botInDone_status (h : s.bot.state = .status) : botInDone n s = postCbwRead s := by
  rw [botInDone, h]

theorem botInDone_other (h : s.bot.state = .idle ∨ s.bot.state = .dataOut ∨ s.bot.state = .stalled) : botInDone n s = s := by
  rcases h with h | h | h <;> rw [botInDone, h]

end BotIn

/-- A bulk IN packet that has been counted leaves bulk IN as ready as it was. -/
theorem BulkInReady.of_delivered {s w : State} (h : BulkInReady s) (hd : InDelivered s.cfg.botInEp s w) : BulkInReady w := by
  obtain ⟨⟨hf, hn, ho⟩, hin, hfits⟩ := h
  obtain ⟨wep, whw, wframe, -, -⟩ := hd
  have wcfg : w.cfg = s.cfg := by rw [wframe]
  rw [BulkInReady, EpUsable, RegionFits, inRegion, wcfg, wep, whw]
  exact ⟨⟨by rw [wframe]; exact hf, hn, ho⟩, hin, hfits⟩

/-- The next block of a READ(10), once its storage has answered true (R270, R286). -/
def NextBlockSent (n : Nat) (rest : List Bool) (s t : State) : Prop :=
  (∀ j, j < 512 → bufByte t .work j = storageByte s (512 * s.scsi.blkAddr + j))
    ∧ (∀ j, 512 ≤ j → bufByte t .work j = bufByte s .work j)
    ∧ t.scsi = { s.scsi with
        work := t.scsi.work, blkAddr := s.scsi.blkAddr + 1, blkLen := s.scsi.blkLen - 1,
        state := if s.scsi.blkLen - 1 = 0 then .lastDataIn else .dataIn }
    ∧ t.bot = { (residueTaken n s).bot with state := if s.scsi.blkLen - 1 = 0 then .dataInLast else .dataIn }
    ∧ WritePosted s.cfg.botInEp .work 512 s t
    ∧ t = { s with eps := t.eps, hws := t.hws, scsi := t.scsi, bot := t.bot, pma := t.pma, answers := rest }
    ∧ OtherEpsKept [s.cfg.botInEp] s t

theorem botInDone_nextBlock {n : Nat} {rest : List Bool} {s : State} (h : BulkInReady s) (hst : s.bot.state = .dataIn)
    (hscsi : s.scsi.state = .dataIn) (hblk : s.scsi.blkAddr < s.scsi.totalBlocks) (ha : s.answers = true :: rest) :
    NextBlockSent n rest s (botInDone n s) := by
  obtain ⟨vframe, vin, vout⟩ := readNext_reads (s := residueTaken n s) hblk ha
  rw [botInDone_dataIn hst hscsi]
  generalize readNext (residueTaken n s) = v at vframe vin vout ⊢
  have vf : v.fault = none := by rw [vframe]; exact h.1.1
  have vstate : v.scsi.state = if s.scsi.blkLen - 1 = 0 then .lastDataIn else .dataIn := by rw [vframe]; rfl
  have vready : BulkInReady v := h.of_same vf (by rw [vframe]; rfl) (by rw [vframe]; rfl) (by rw [vframe]; rfl)
  obtain ⟨tposted, tbot, tframe, tothers⟩ := handleResult_dataIn vready (by rw [vstate]; split <;> simp)
  rw [andThen_running vf]
  generalize handleResult v = t at tposted tbot tframe tothers ⊢
  have tscsi : t.scsi = v.scsi := by rw [tframe]
  have vscsi := congrArg State.scsi vframe
  have twork (j : Nat) : bufByte t .work j = bufByte v .work j := by rw [tframe]; rfl
  refine ⟨fun j hj => (twork j).trans (vin j hj), fun j hj => (twork j).trans (vout j hj), ?_, ?_, ?_, ?_, ?_⟩
  · rw [tscsi]
    exact vscsi
  · rw [tbot, vstate, show v.bot = (residueTaken n s).bot by rw [vframe]]
    by_cases hlast : s.scsi.blkLen - 1 = 0 <;> simp [hlast]
  · rw [vframe] at tposted
    exact tposted
  · rw [tscsi, vscsi]
    exact tframe.trans (congrArg (fun q : State => { q with eps := t.eps, hws := t.hws, bot := t.bot, pma := t.pma }) vframe)
  · rw [vframe] at tothers
    exact tothers

/-- Settles O53: `botInDone` on the state in which the packet has been counted, state by state. -/
theorem botInCompletionAdvances : Obligations.BotInCompletionAdvances := by
  intro s hwf hlast hcb
  obtain ⟨hin, hout, -⟩ := configWf_bulk hwf
  obtain ⟨hexec, hdelivered⟩ := evCtr_lastIn hlast
  rw [hcb] at hexec
  generalize inCounted s.cfg.botInEp s = w at hexec hdelivered
  generalize (s.ep s.cfg.botInEp).transferred + (s.ep s.cfg.botInEp).inflight = n at hexec ⊢
  refine ⟨w, botInDone n w, hdelivered, hexec, ?_⟩
  have hready (hi : EpUsable s.cfg.botInEp s) (hr : RegionFits s.cfg.botInEp s) : BulkInReady w :=
    BulkInReady.of_delivered ⟨hi, hin, hr⟩ hdelivered
  obtain ⟨-, -, wframe, wothers, -⟩ := hdelivered
  obtain ⟨E, H, rfl⟩ := tables_of_frame wframe
  set w : State := { s with eps := E, hws := H }
  refine ⟨fun hst ho => ?_, botInDone_other (s := w), fun hi hr => ?_⟩
  · rw [botInDone_status (s := w) hst]
    exact (postCbwRead_posts (s := w) (usable_kept ho ho.1 rfl (wothers _ (by simpa using (bulk_ne hwf).symm)).1) hout).1
  have hr : BulkInReady w := hready hi hr
  have hr' : BulkInReady (residueTaken n w) := hr.of_same hi.1 rfl rfl rfl
  refine ⟨fun hst hz => ?_, fun hst hz => ?_, fun hst => ?_, fun hst => ?_, fun hst hscsi hblk => ⟨fun rest ha => ?_,
    fun rest hp ha => ?_⟩⟩
  · rw [botInDone_dataSend (s := w) hst, if_pos (by exact hz)]
    exact epWrite_bulkIn hr' rfl fun b => { b with zlp := false, state := .dataZlp }
  · rw [botInDone_dataSend (s := w) hst, if_neg (show ¬ s.bot.zlp = true by simp [hz])]
    exact hr'.sendCsw 0x00
  · rw [botInDone_dataZlp (s := w) hst]
    exact hr.sendCsw 0x00
  · rw [botInDone_dataInLast (s := w) hst]
    exact hr'.sendCsw 0x00
  · exact botInDone_nextBlock (s := w) hr hst hscsi hblk ha
  · rw [botInDone_dataIn (s := w) hst hscsi]
    obtain ⟨hfailed, vout⟩ := readNext_fails (s := residueTaken n w) hblk ha hi.1 hp
    exact ⟨_, vout, hfailed, handleResult_failed hfailed (hr.of_same hi.1 rfl rfl rfl)⟩

/-! ## The end of a WRITE(10) block (R271, R287) -/

theorem botOutDone_dataOut {n : Nat} {s : State} (h : s.bot.state = .dataOut) (hst : s.scsi.state = .dataOut) :
    botOutDone n s = (writeNext (residueTaken n s)).andThen handleResult := by
  have hwrite : resumeCommand (residueTaken n s) = writeNext (residueTaken n s) := by
    rw [resumeCommand, show (residueTaken n s).scsi.state = _ from hst]
  rw [botOutDone, h, ← hwrite]
  rfl

/-- Settles O54: the block of the state in which the packet has been delivered is written, or its failure reported. -/
theorem writeBlockServiced : Obligations.WriteBlockServiced := by
  rintro s rest - ⟨hi, ho, hin, hout, hregion⟩ hlast hbot hscsi hblk - hcb
  obtain ⟨w, hexec, hdelivered, -⟩ := evCtr_lastOut hlast
  rw [hcb] at hexec
  dsimp only
  generalize (s.ep s.cfg.botOutEp).transferred + outTaken s.cfg.botOutEp s = n at hexec ⊢
  obtain ⟨-, -, wep, -, wframe, wothers⟩ := id hdelivered
  have hne : s.cfg.botInEp ∉ [s.cfg.botOutEp] := fun h => by simp [List.mem_singleton.mp h, hout] at hin
  obtain ⟨winEp, winHw⟩ := wothers s.cfg.botInEp hne
  obtain ⟨E, H, A, C, W, K, L, rfl⟩ : ∃ E H A C W K L, w = { s with
      eps := E, hws := H, app := A, ctl := { s.ctl with scratch := C }, scsi := { s.scsi with work := W },
      bot := { s.bot with cbwBuf := K, cswBuf := L } } := ⟨_, _, _, _, _, _, _, wframe⟩
  set w : State := { s with
      eps := E, hws := H, app := A, ctl := { s.ctl with scratch := C }, scsi := { s.scsi with work := W },
      bot := { s.bot with cbwBuf := K, cswBuf := L } }
  have hready : BulkInReady w := BulkInReady.of_same (s := s) ⟨hi, hin, hregion⟩ hi.1 rfl winEp winHw
  have hopen : (w.ep s.cfg.botOutEp).isOpen = true := by rw [wep]; exact ho.2.2
  have hdone : callback (some .botOut) s.cfg.botOutEp n w = (writeNext (residueTaken n w)).andThen handleResult :=
    botOutDone_dataOut hbot hscsi
  rw [hdone] at hexec
  refine ⟨fun ha => ⟨w, writeNext (residueTaken n w), _, hdelivered, hexec, ?_⟩,
    fun hp ha => ⟨w, writeNext (residueTaken n w), _, hdelivered, hexec, ?_⟩⟩
  · obtain ⟨vframe, vin, vout⟩ := writeNext_writes (s := residueTaken n w) hblk (rest := rest) ha
    generalize writeNext (residueTaken n w) = v at vframe vin vout
    refine ⟨vin, vout, vframe, ?_⟩
    obtain ⟨B, rfl⟩ : ∃ B, v = { residueTaken n w with
        blocks := B, answers := rest,
        scsi := { w.scsi with blkAddr := s.scsi.blkAddr + 1, blkLen := s.scsi.blkLen - 1,
                              state := if s.scsi.blkLen - 1 = 0 then .ok else .dataOut } } := ⟨_, vframe⟩
    rw [andThen_running (by exact hi.1)]
    refine ⟨fun hl => handleResult_ok (BulkInReady.of_same hready hi.1 rfl rfl rfl) (if_pos hl), fun hl => ?_⟩
    exact handleResult_dataOut ⟨hi.1, ho.2.1, hopen⟩ hout (if_neg hl)
  · obtain ⟨hfailed, vout⟩ := writeNext_fails (s := residueTaken n w) hblk (rest := rest) ha hi.1 hp
    exact ⟨vout, hfailed, handleResult_failed hfailed (hready.of_same hi.1 rfl rfl rfl)⟩

end Sys2Proof.Proofs
end

section
/-!
PROOFS of the exceptions family (60_exceptions): no agent has a step once the sticky fault is set, and what the handler does when nothing
is scheduled.
-/

namespace Sys2Proof.Proofs

open Sys2Proof.Machine

/-! ## The sticky fault (60_exceptions R330) -/

theorem guardedStep_stopped {s : State} {r : FaultReason} (h : s.fault = some r) (g : State → Option NoStep) (f : State → State) :
    guardedStep s g f = .fault (.stopped r) := by
  simp [guardedStep, h]

/-- Every instruction is a step of an agent: one with a guard for the host's transactions and signals and for the handler's services,
one without for everything else. -/
theorem exec_agentStep_or_guardedStep (i : Instr) :
    (∃ f, ∀ s, exec i s = agentStep s f) ∨ ∃ g f, ∀ s, exec i s = guardedStep s g f := by
  cases i with
  | hostBusReset | hostSetup | hostOut | hostIn | hostSuspend | hostResume | evReset | evCtr | evSuspend | evResume =>
    exact .inr ⟨_, _, fun _ => rfl⟩
  | _ => exact .inl ⟨_, fun _ => rfl⟩

/-- Settles O6: an agent's step, guarded or not, asks for the fault first. -/
theorem faultedMachineHasNoStep : Obligations.FaultedMachineHasNoStep := by
  intro i s r hr
  obtain ⟨f, hf⟩ | ⟨g, f, hf⟩ := exec_agentStep_or_guardedStep i
  · rw [hf, agentStep_stopped hr]
  · rw [hf, guardedStep_stopped hr]

/-! ## The pending events (60_exceptions R333, R335) -/

theorem mem_allEps (a : EpAddr) : a ∈ allEps := by
  obtain ⟨isIn, num⟩ := a
  simp only [allEps, List.mem_flatten, List.mem_map, List.mem_range]
  refine ⟨_, ⟨num.toNat, num.isLt, rfl⟩, ?_⟩
  cases isIn <;> simp

theorem pendingEvents_reset {s : State} (h : s.periph.pendReset = true) : pendingEvents s = [.evReset] := if_pos h

/-- With no bus reset pending, the events the handler may service are the pending ones. -/
theorem mem_pendingEvents {s : State} (h : s.periph.pendReset = false) (i : Instr) : i ∈ pendingEvents s ↔ EventPending i s := by
  simp only [pendingEvents, h, Bool.false_eq_true, if_false, List.mem_append, List.mem_map, List.mem_filter, mem_allEps, true_and]
  constructor
  · rintro ((⟨a, ha, rfl⟩ | hi) | hi)
    · exact (eventPending_evCtr a s).mpr ha
    · obtain ⟨hp, rfl⟩ : s.periph.pendSuspend = true ∧ i = .evSuspend := by simpa using hi
      exact (eventPending_evSuspend s).mpr hp
    · obtain ⟨hp, rfl⟩ : s.periph.pendResume = true ∧ i = .evResume := by simpa using hi
      exact (eventPending_evResume s).mpr hp
  · rintro (⟨-, hp⟩ | ⟨rfl, hp⟩ | ⟨rfl, hp⟩ | ⟨a, rfl, hn, hc⟩)
    · simp [h] at hp
    · exact .inl (.inr (by simp [hp]))
    · exact .inr (by simp [hp])
    · exact .inl (.inl ⟨a, by simp [ctrPending, epExists, hn, hc], rfl⟩)

theorem pendingEvents_eq_nil {s : State} (h : ∀ i, ¬ EventPending i s) : pendingEvents s = [] := by
  have hr : s.periph.pendReset = false := by simpa using h .evReset
  exact List.eq_nil_iff_forall_not_mem.mpr fun i hi => h i ((mem_pendingEvents hr i).mp hi)

/-! ## The handler's move (60_exceptions R335, 93_implementation_defined U5) -/

/-- Where something is pending the handler moves: it services one of the pending events, drawing a free value if there are several. -/
theorem handlerMove_of_pending {s : State} (h : pendingEvents s ≠ []) :
    ∃ i t, i ∈ pendingEvents s ∧ (t = s ∨ t = useDraw s) ∧ handlerMove s = some (i, t) := by
  unfold handlerMove
  split
  · exact absurd ‹_› h
  · rename_i i he
    exact ⟨i, s, by simp [he], .inl rfl, rfl⟩
  · rename_i i j rest he
    refine ⟨_, _, ?_, .inr rfl, rfl⟩
    have hlt : Config.serviceChoice s.draws % (rest.length + 2) < (i :: j :: rest).length := Nat.mod_lt _ (by omega)
    rw [he, List.getD_eq_getElem _ _ hlt]
    exact List.getElem_mem hlt

/-- Under a well-formed configuration a step with nothing scheduled is the handler's. -/
theorem step_unscheduled {s : State} (hc : configWf s.cfg = true) (hs : s.script = []) : step s = runHandler s := by
  simp [step, nextWord, hs, underWfConfig, hc]

theorem runHandler_some {s t : State} {i : Instr} (h : handlerMove s = some (i, t)) : runHandler s = exec i t := by
  simp [runHandler, h]

/-- Settles O5: the handler moves by the list of the events it may service, which holds a pending reset alone, else what is pending. -/
theorem handlerServicesPending : Obligations.HandlerServicesPending := by
  intro s hc hs
  rw [step_unscheduled hc hs]
  refine ⟨fun hr => ?_, fun hr ⟨i, hi⟩ => ?_, fun hnone hf => ?_⟩
  · exact runHandler_some (by simp [handlerMove, pendingEvents_reset hr])
  · have hne : pendingEvents s ≠ [] := List.ne_nil_of_mem ((mem_pendingEvents hr i).mpr hi)
    obtain ⟨j, t, hj, ht, hmove⟩ := handlerMove_of_pending hne
    exact ⟨j, t, (mem_pendingEvents hr j).mp hj, ht, runHandler_some hmove⟩
  · have hidle : runHandler s = idleStep s := by simp [runHandler, handlerMove, pendingEvents_eq_nil hnone]
    rw [hidle, idleStep, agentStep_running hf, id]

end Sys2Proof.Proofs
end

section
/-!
PROOFS of the reset family (70_reset_and_hazards R371, R372): what leaving a class writes and the bus reset writes again, the bus reset
from a state with no active class, and power-on as a bus reset of blank fields.
-/

namespace Sys2Proof.Proofs

open Sys2Proof.Machine

/-! ## A class function does not write the peripheral's globals (41_control_transfer R238; 60_exceptions R339) -/

theorem andThen_periph {s t : State} {f : State → State} (h : t.periph = s.periph) (hf : (f t).periph = t.periph) :
    (t.andThen f).periph = s.periph := by
  rcases andThen_cases t f with ⟨-, -, e⟩ | ⟨-, e⟩ <;> rw [e]
  · exact h
  · exact hf.trans h

theorem withChecks_periph {cs : List (Option FaultReason)} {f : State → State} {s : State} (h : (f s).periph = s.periph) :
    (withChecks cs f s).periph = s.periph := by
  rcases withChecks_cases cs f s with ⟨r, -, e⟩ | ⟨-, e⟩ <;> rw [e]
  · exact raise_periph s r
  · exact h

@[simp] theorem pmaAlloc_periph (n : Nat) (s : State) : (pmaAlloc n s).periph = s.periph := by
  rcases pmaAlloc_cases n s with ⟨-, e⟩ | ⟨-, e⟩ <;> simp [e]

@[simp] theorem epOpen_periph (ep : EpAddr) (ty : EpType) (mps : Nat) (cb : CallbackId) (s : State) :
    (epOpen ep ty mps cb s).periph = s.periph := by
  rcases epOpen_cases ep ty mps cb s with e | ⟨-, e, -⟩ | ⟨hf, hn, h₁, h₂, hp⟩
  · rw [e, raise_periph]
  · rw [e]
  · obtain ⟨-, -, -, -, e, -⟩ := epOpen_spec (ty := ty) (cb := cb) hf hn h₁ h₂ hp
    rw [e]

@[simp] theorem epClose_periph (ep : EpAddr) (s : State) : (epClose ep s).periph = s.periph := withChecks_periph rfl

@[simp] theorem loadIn_periph (ep : EpAddr) (s : State) : (loadIn ep s).periph = s.periph := by
  rcases loadIn_cases ep s with e | ⟨-, e⟩ | ⟨-, e⟩ <;> simp [e]

@[simp] theorem epRead_periph (ep : EpAddr) (buf : BufRef) (len : Nat) (s : State) : (epRead ep buf len s).periph = s.periph :=
  withChecks_periph (by rw [arm_eq]; rfl)

@[simp] theorem epWrite_periph (ep : EpAddr) (buf : BufRef) (len : Nat) (s : State) : (epWrite ep buf len s).periph = s.periph :=
  withChecks_periph (loadIn_periph ..)

@[simp] theorem epStall_periph (ep : EpAddr) (s : State) : (epStall ep s).periph = s.periph := withChecks_periph rfl

@[simp] theorem epDestall_periph (ep : EpAddr) (s : State) : (epDestall ep s).periph = s.periph := withChecks_periph rfl

@[simp] theorem ctlStatus_periph (s : State) : (ctlStatus s).periph = s.periph := epWrite_periph ..

@[simp] theorem ctlSend_periph (buf : BufRef) (len : Nat) (s : State) : (ctlSend buf len s).periph = s.periph := by
  unfold ctlSend
  split
  · exact raise_periph ..
  · split
    · exact ctlStatus_periph s
    · exact andThen_periph (epWrite_periph ..) (epRead_periph ..)

@[simp] theorem ctlReceive_periph (buf : BufRef) (len : Nat) (s : State) : (ctlReceive buf len s).periph = s.periph := by
  unfold ctlReceive
  split
  · exact raise_periph ..
  · split
    · exact ctlStatus_periph s
    · exact epRead_periph ..

theorem classCallOp_periph (op : Instr) (s : State) : (classCallOp op s).periph = s.periph := by
  cases op with
  | epOpen | epClose | epRead | epWrite | epStall | epDestall | ctlSend | ctlReceive => simp [classCallOp]
  | epWriteZlp => exact epWrite_periph ..
  | pmaAlloc => exact andThen_periph (pmaAlloc_periph ..) rfl
  | _ => rfl

theorem classAct_periph (a : ClassAct) (s : State) : (classAct a s).periph = s.periph := by
  cases a with
  | call op => exact classCallOp_periph op s
  | store => rfl

theorem classActs_periph (acts : List ClassAct) (s : State) : (classActs acts s).periph = s.periph := by
  induction acts generalizing s with
  | nil => rfl
  | cons a rest ih => exact andThen_periph (classAct_periph a s) (ih _)

theorem classActs_cfg (acts : List ClassAct) (s : State) : (classActs acts s).cfg = s.cfg :=
  ((cfgKept_closed False).classActs acts s).1

/-! ## The state with no active class (R371) -/

/-- `class_active <- false` (R371). -/
def classCleared (s : State) : State := s.modCtl (fun c => { c with classActive := false })

/-- `pend_reset <- false` (R371). -/
def resetTaken (s : State) : State := s.modPeriph (fun p => { p with pendReset := false })

theorem classCleared_inactive {s : State} (h : s.ctl.classActive = false) : classCleared s = s := by
  have hctl : { s.ctl with classActive := false } = s.ctl := congrArg (fun b => { s.ctl with classActive := b }) h.symm
  exact congrArg s.withCtl hctl

/-! ## The bus reset writes again what closing an endpoint wrote (R371, 10_state R41) -/

theorem mapTable_congr {α β : Type} {f : α → β} {v w : Vector α 32} (h : ∀ i (hi : i < 32), f v[i] = f w[i]) :
    mapTable f v = mapTable f w := Vector.ext fun i hi => by simpa using h i hi

theorem resetFields_modEp_closeRecord (s : State) (a : EpAddr) : resetFields (s.modEp a closeRecord) = resetFields s := by
  have htable : mapTable closeRecord (s.modEp a closeRecord).eps = mapTable closeRecord s.eps := mapTable_congr fun i hi => by
    by_cases h : (epSlot a).val = i <;> simp [State.modEp, State.ep, h, closeRecord]
  exact congrArg (fun E => { resetFields s with eps := E }) htable

theorem resetFields_modHw (s : State) (a : EpAddr) (f : EpHw → EpHw) : resetFields (s.modHw a f) = resetFields s := by
  have htable : mapTable (fun _ => EpHw.disabled) (s.modHw a f).hws = mapTable (fun _ => EpHw.disabled) s.hws :=
    mapTable_congr fun _ _ => rfl
  exact congrArg (fun H => { resetFields s with hws := H }) htable

/-- What deinit of the mass-storage class writes, the reset writes again (42 R261). -/
theorem resetFields_mscDeinit {s : State} (hi : EpUsable s.cfg.botInEp s) (ho : EpUsable s.cfg.botOutEp s)
    (hne : s.cfg.botInEp ≠ s.cfg.botOutEp) : resetFields (mscDeinit s) = resetFields s := by
  rw [mscDeinit_eq hi ho hne]
  calc resetFields _
    _ = resetFields ((((s.modEp s.cfg.botInEp closeRecord).modHw s.cfg.botInEp closeHw).modEp s.cfg.botOutEp closeRecord).modHw
          s.cfg.botOutEp closeHw) := rfl
    _ = resetFields s := by
      rw [resetFields_modHw, resetFields_modEp_closeRecord, resetFields_modHw, resetFields_modEp_closeRecord]

/-! ## The class is left (R371; 41 R238, 42 R261) -/

theorem reopenControl_congr {s t : State} (hc : t.cfg = s.cfg) (h : resetFields t = resetFields s) :
    reopenControl t = reopenControl s := by
  rw [reopenControl, reopenControl, h, hc]

/-- With no class active or an open mass-storage class, the reset is the one of the state with no active class. -/
theorem busReset_eq {s : State} (hf : s.fault = none) (hwf : configWf s.cfg = true)
    (h : s.ctl.classActive = true → s.cfg.cls = .msc ∧ EpUsable s.cfg.botInEp s ∧ EpUsable s.cfg.botOutEp s) :
    busReset s = reopenControl (classCleared (resetTaken s)) := by
  cases hc : s.ctl.classActive with
  | false =>
    have hleft : leaveClass (resetTaken s) = resetTaken s := leaveClass_inactive_eq hc
    rw [classCleared_inactive (s := resetTaken s) hc]
    exact (congrArg (State.andThen · reopenControl) hleft).trans (andThen_running (by exact hf) _)
  | true =>
    obtain ⟨hcls, hi, ho⟩ := h hc
    have hfields := resetFields_mscDeinit (s := resetTaken s) hi ho (bulk_ne hwf)
    obtain ⟨-, hframe, -⟩ := mscDeinit_leaves (s := resetTaken s) hi ho (bulk_ne hwf)
    have hmf : (mscDeinit (resetTaken s)).fault = none := by rw [hframe]; exact hf
    have hleft : leaveClass (resetTaken s) = classCleared (mscDeinit (resetTaken s)) := leaveClass_active_eq hc hcls hmf
    calc busReset s
      _ = (classCleared (mscDeinit (resetTaken s))).andThen reopenControl := congrArg (State.andThen · reopenControl) hleft
      _ = reopenControl (classCleared (mscDeinit (resetTaken s))) := andThen_running (by exact hmf) _
      _ = reopenControl (classCleared (resetTaken s)) :=
        reopenControl_congr (by rw [hframe]; rfl) (congrArg classCleared hfields :)

/-- An OPAQUE class is left by the run given for its deinit (assumption log 13). -/
theorem busReset_opaque {s : State} {hook : Bool} {run : ClassRun} {rest : List ClassRun} (hc : s.ctl.classActive = true)
    (hcls : s.cfg.cls = .other hook) (hruns : s.classRuns = run :: rest) :
    busReset s = ((classActs run.acts { s with
      periph := { s.periph with pendReset := false }, classRuns := rest, calls := .deinit :: s.calls }).andThen
      classCleared).andThen reopenControl := by
  have hdeinit : classDeinit (resetTaken s) = classActs run.acts { s with
      periph := { s.periph with pendReset := false }, classRuns := rest, calls := .deinit :: s.calls } := by
    simp [classDeinit, resetTaken, State.modPeriph, hcls, runClass, nextClassRun, useClassRun, hruns]
  have hleft : leaveClass (resetTaken s) = (classDeinit (resetTaken s)).andThen classCleared := if_pos hc
  exact congrArg (State.andThen · reopenControl) (hleft.trans (congrArg (State.andThen · classCleared) hdeinit))

/-! ## The control pair is opened afresh (R371, 10_state R41) -/

/-- The record of a control endpoint opened with its region at `off` (40 R152). -/
def controlRecord (mps off : Nat) (cb : CallbackId) (e : EpRec) : EpRec :=
  { e with
    isOpen := true, type := .control, mps := mps, dbuf := false, off0 := off, stalled := false, active := false,
    remaining := 0, transferred := 0, inflight := 0, callback := some cb }

/-- EP_OPEN of a control endpoint: `epOpen_spec` where DBUF(ep) is false. -/
theorem epOpen_control {ep : EpAddr} (cb : CallbackId) {c : Config} {s : State} (hf : s.fault = none) (hwf : configWf c = true)
    (hc : s.cfg = c) (hep : ep.num = 0) (hp : s.pmaNext + c.ep0Mps ≤ c.pmaSize) :
    let t := epOpen ep .control c.ep0Mps cb s
    t.fault = none ∧ t.ep ep = controlRecord c.ep0Mps s.pmaNext cb (s.ep ep)
      ∧ t.hw ep = ⟨openStat ep .control, false, 0, false, false, false⟩
      ∧ t.pmaNext = s.pmaNext + c.ep0Mps
      ∧ t = { s with eps := t.eps, hws := t.hws, pmaNext := t.pmaNext } ∧ OtherEpsKept [ep] s t := by
  subst hc
  obtain ⟨-, h8, h64, hn, -⟩ := configWf_control hwf
  have hd : isDbuf s.cfg ep = false := isDbuf_control hwf hep
  have htakes (n : Nat) : openTakes ep n s = n := by simp [openTakes, hd]
  obtain ⟨tf, tep, thw, tnext, tframe, tothers⟩ := epOpen_spec (ty := .control) (cb := cb) hf (by rw [hep]; exact hn)
    (mps := s.cfg.ep0Mps) (by omega) (by omega) (by rw [htakes]; exact hp)
  refine ⟨tf, ?_, thw, tnext.trans (by rw [htakes]), tframe, tothers⟩
  simpa [hd, controlRecord] using tep

/-- The two openings in a row: the pair's regions follow one another from the allocator's offset (R371). -/
theorem openControlPair {r : State} (hf : r.fault = none) (hwf : configWf r.cfg = true)
    (hp : r.pmaNext + 2 * r.cfg.ep0Mps ≤ r.cfg.pmaSize) :
    let t := (epOpen ctlOut .control r.cfg.ep0Mps .ctrlOut r).andThen (epOpen ctlIn .control r.cfg.ep0Mps .ctrlIn)
    t.fault = none ∧ t.pmaNext = r.pmaNext + 2 * r.cfg.ep0Mps
      ∧ t.ep ctlOut = controlRecord r.cfg.ep0Mps r.pmaNext .ctrlOut (r.ep ctlOut)
      ∧ t.ep ctlIn = controlRecord r.cfg.ep0Mps (r.pmaNext + r.cfg.ep0Mps) .ctrlIn (r.ep ctlIn)
      ∧ t.hw ctlOut = ⟨.valid, false, 0, false, false, false⟩ ∧ t.hw ctlIn = ⟨.nak, false, 0, false, false, false⟩
      ∧ OtherEpsKept [ctlOut, ctlIn] r t ∧ t = { r with eps := t.eps, hws := t.hws, pmaNext := t.pmaNext } := by
  obtain ⟨af, aep, ahw, anext, aframe, aothers⟩ := epOpen_control (ep := ctlOut) .ctrlOut hf hwf rfl rfl (by omega)
  rw [andThen_running af]
  generalize epOpen ctlOut .control r.cfg.ep0Mps .ctrlOut r = a at af aep ahw anext aframe aothers
  obtain ⟨tf, tep, thw, tnext, tframe, tothers⟩ := epOpen_control (ep := ctlIn) .ctrlIn af hwf (by rw [aframe]) rfl
    (by rw [anext]; omega)
  generalize epOpen ctlIn .control r.cfg.ep0Mps .ctrlIn a = t at tf tep thw tnext tframe tothers
  obtain ⟨toutEp, toutHw⟩ := tothers ctlOut (by simp [ctlIn_ne_ctlOut.symm])
  obtain ⟨ainEp, -⟩ := aothers ctlIn (by simp [ctlIn_ne_ctlOut])
  rw [anext] at tep tnext
  rw [ainEp] at tep
  refine ⟨tf, by omega, toutEp.trans aep, tep, toutHw.trans ahw, thw, ?_, ?_⟩
  · exact otherEpsKept_trans (otherEpsKept_mono aothers (by simp)) (otherEpsKept_mono tothers (by simp))
  · exact tframe.trans (congrArg (fun q : State => { q with eps := t.eps, hws := t.hws, pmaNext := t.pmaNext }) aframe)

/-- What the reset's writes leave of a state with no active class and no reset pending, group by group. -/
theorem resetFields_classCleared {s : State} (hp : s.periph.pendReset = false) : resetFields (classCleared s) = { s with
    pmaNext := s.cfg.pmaBase, eps := mapTable closeRecord s.eps, hws := mapTable (fun _ => EpHw.disabled) s.hws,
    periph := ⟨s.periph.started, 0, false, false, false⟩, ctl := { resetSession s.ctl with classActive := false },
    bot := { s.bot with state := .idle, zlp := false } } := by
  simp only [resetFields, resetRemainder, classCleared, setHwAddress, State.modPeriph, State.modCtl, State.modHws, State.modEps,
    State.modBot, State.setPmaNext, resetSession, hp]

/-- The bus reset of a state with no active class and no reset pending (R371). -/
theorem reopenControl_leaves {s : State} (hf : s.fault = none) (hwf : configWf s.cfg = true)
    (hp : s.periph.pendReset = false) : BusResetLeaves s (reopenControl (classCleared s)) := by
  have hreopen : reopenControl (classCleared s) = (epOpen ctlOut .control s.cfg.ep0Mps .ctrlOut (resetFields (classCleared s))).andThen
      (epOpen ctlIn .control s.cfg.ep0Mps .ctrlIn) := rfl
  have rframe := resetFields_classCleared hp
  generalize resetFields (classCleared s) = r at hreopen rframe
  have rep (a : EpAddr) : r.ep a = closeRecord (s.ep a) := by rw [rframe]; exact ep_modEps s closeRecord a
  have rhw (a : EpAddr) : r.hw a = EpHw.disabled := by rw [rframe]; exact hw_modHws s (fun _ => EpHw.disabled) a
  have rcfg : r.cfg = s.cfg := by rw [rframe]
  have rnext : r.pmaNext = s.cfg.pmaBase := by rw [rframe]
  obtain ⟨hfits, -⟩ := configWf_control hwf
  have hopened := openControlPair (r := r) (by rw [rframe]; exact hf) (by rw [rcfg]; exact hwf) (by rw [rcfg, rnext]; exact hfits)
  rw [rcfg, rnext, rep, rep] at hopened
  obtain ⟨tf, tnext, toutEp, tinEp, toutHw, tinHw, tothers, tframe⟩ := hopened
  rw [hreopen]
  generalize (epOpen ctlOut .control s.cfg.ep0Mps .ctrlOut r).andThen _ = t at tf tnext toutEp tinEp toutHw tinHw tothers tframe
  have kept (a : EpAddr) (ho : a ≠ ctlOut) (hi : a ≠ ctlIn) : t.ep a = closeRecord (s.ep a) ∧ t.hw a = EpHw.disabled := by
    obtain ⟨tep, thw⟩ := tothers a (by simp [ho, hi])
    exact ⟨tep.trans (rep a), thw.trans (rhw a)⟩
  rw [rframe] at tframe
  obtain ⟨E, H, n, rfl⟩ : ∃ E H n, t = { s with
      pmaNext := n, eps := E, hws := H, periph := ⟨s.periph.started, 0, false, false, false⟩,
      ctl := { resetSession s.ctl with classActive := false }, bot := { s.bot with state := .idle, zlp := false } } :=
    ⟨_, _, _, tframe⟩
  exact ⟨tf, tnext, toutEp, tinEp, toutHw, tinHw, kept, rfl, rfl, rfl, rfl, fun _ => rfl, fun _ _ => rfl, fun _ => rfl⟩

/-- A fault raised while the class is left stops the reset there; with none the reset goes on (R371, 60_exceptions R330). -/
theorem reset_after_classActs {u : State} (hwf : configWf u.cfg = true) (hp : u.periph.pendReset = false) :
    (u.fault ≠ none → (u.andThen classCleared).andThen reopenControl = u)
      ∧ (u.fault = none → BusResetLeaves u ((u.andThen classCleared).andThen reopenControl)) := by
  refine ⟨fun hfault => ?_, fun hf => ?_⟩
  · obtain ⟨r, hr⟩ := Option.ne_none_iff_exists'.mp hfault
    rw [andThen_faulted hr, andThen_faulted hr]
  · rw [andThen_running hf, andThen_running (s := classCleared u) hf]
    exact reopenControl_leaves hf hwf hp

/-- Settles O23: however the class is left, the reset goes on from a state with no active class (`reopenControl_leaves`). -/
theorem busResetServiced : Obligations.BusResetServiced := by
  intro s hf hwf hp
  have hexec : exec .evReset s = .next (busReset s) :=
    guardedStep_running (g := fun s => if s.periph.pendReset then none else some .notPending) hf (if_pos hp) busReset
  refine ⟨fun hclass => ⟨_, hexec, ?_⟩, fun hook run rest hactive hcls hruns => ?_⟩
  · rw [busReset_eq hf hwf hclass]
    exact reopenControl_leaves (s := resetTaken s) hf hwf rfl
  · rw [busReset_opaque hactive hcls hruns] at hexec
    exact ⟨_, _, rfl, hexec, reset_after_classActs (by rw [classActs_cfg]; exact hwf) (by rw [classActs_periph])⟩

/-! ## Power-on (R372, 10_state R41) -/

theorem epSlot_surjective (i : Nat) (hi : i < 32) : ∃ a, (epSlot a).val = i := by
  by_cases h : i < 16
  · exact ⟨⟨false, BitVec.ofNat 4 i⟩, by simp [epSlot]; omega⟩
  · exact ⟨⟨true, BitVec.ofNat 4 (i - 16)⟩, by simp [epSlot]; omega⟩

/-- The endpoint tables are what the addresses read of them. -/
theorem tables_ext {s t : State} (h : ∀ a, t.ep a = s.ep a ∧ t.hw a = s.hw a) : t.eps = s.eps ∧ t.hws = s.hws := by
  constructor <;> refine Vector.ext fun i hi => ?_ <;> obtain ⟨a, rfl⟩ := epSlot_surjective i hi
  · exact (h a).1
  · exact (h a).2

/-- peripheral.init() on the blank fields leaves every record closed and every status zero (10_state R41). -/
theorem peripheralInit_powerOnFields (s : State) (a : EpAddr) :
    (peripheralInit (powerOnFields s)).ep a = EpRec.closed ∧ (peripheralInit (powerOnFields s)).hw a = EpHw.disabled :=
  ⟨by simp [peripheralInit, powerOnFields, State.ep], by simp [peripheralInit]⟩

/-- The endpoint tables after power-on are those of R41's table. -/
theorem powerOn_tables {s v t : State} (hv : v = peripheralInit (powerOnFields s)) (h : BusResetLeaves v t) :
    t.eps = (State.powerOn s.cfg).eps ∧ t.hws = (State.powerOn s.cfg).hws := by
  obtain ⟨-, -, toutEp, tinEp, toutHw, tinHw, tothers, -⟩ := h
  have vcfg : v.cfg = s.cfg := by rw [hv]; rfl
  have vep (a : EpAddr) : v.ep a = EpRec.closed := by rw [hv]; exact (peripheralInit_powerOnFields s a).1
  rw [vcfg, vep] at toutEp tinEp
  refine tables_ext fun a => ?_
  by_cases ho : a = ctlOut
  · subst ho
    exact ⟨toutEp, toutHw⟩
  · by_cases hi : a = ctlIn
    · subst hi
      exact ⟨tinEp, tinHw⟩
    · obtain ⟨tep, thw⟩ := tothers a ho hi
      obtain ⟨pep, phw⟩ := powerOnState_other s.cfg ho hi
      rw [vep] at tep
      exact ⟨tep.trans pep.symm, thw.trans phw.symm⟩

/-- Settles O30: power-on is the bus reset of blank fields (`busReset_eq`), and leaves what R41's table says. -/
theorem powerOnCompletes : Obligations.PowerOnCompletes := by
  intro s hf hwf
  refine agentStep_answers hf ?_
  obtain ⟨v, hv⟩ : ∃ v, v = peripheralInit (powerOnFields s) := ⟨_, rfl⟩
  have hreset : busReset v = reopenControl (classCleared (resetTaken v)) := by
    subst hv
    exact busReset_eq rfl hwf (by intro h; cases h)
  have hleaves : BusResetLeaves v (busReset v) := by
    rw [hreset]
    exact reopenControl_leaves (s := resetTaken v) (by rw [hv]; rfl) (by rw [hv]; exact hwf) rfl
  have htables := powerOn_tables hv hleaves
  rw [powerOn, ← hv]
  generalize busReset v = t at hleaves htables
  obtain ⟨teps, thws⟩ := htables
  obtain ⟨tf, tnext, -, -, -, -, -, tperiph, tctl, tbot, tframe, -⟩ := hleaves
  rw [andThen_running tf]
  rw [tnext, teps, thws, tperiph, tctl, tbot] at tframe
  rw [tframe, hv]
  rfl

end Sys2Proof.Proofs
end
